-- ==== Sys2Proof/Word.lean ====
section
/-! DEFINITION. The two bit-vector widths of the hardware (00_scope.md R6, R9). -/

namespace Sys2Proof

/-- `bits8`: a data register, a memory cell, an opcode, a one-byte operand. -/
abbrev Byte := BitVec 8

/-- `bits16`: the program counter, an address, a two-byte operand. -/
abbrev Word := BitVec 16

end Sys2Proof
end

