-- ==== Sys2Proof/Machine/Bits.lean ====
section
/-! DEFINITION. Bit-field and byte-order helpers (00_scope.md R9, 20_memory.md R47). -/

namespace Sys2Proof.Machine

/-- `zext16(v8)` (R9): the address a zero-page byte names. No rule sign-extends. -/
def zext16 (v : Byte) : Word := v.zeroExtend 16

/-- `hi : lo` (R9): the word whose value is hi × 256 + lo. -/
def joinBytes (hi lo : Byte) : Word := hi ++ lo

/-- `v[7:0]`, the byte stored at the lower address (R45, R47). -/
def lowByte (v : Word) : Byte := v.extractLsb' 0 8

/-- `v[15:8]`, the byte stored at the next address (R45, R47). -/
def highByte (v : Word) : Byte := v.extractLsb' 8 8

end Sys2Proof.Machine
end

