-- ==== Sys2Proof/Config.lean ====
section
/-! DEFINITION. The open parameters of 00_scope.md R7: their types. Their default values stand in
Sys2Proof/Machine/Params.lean. The spec says a model takes them as arguments; here they are the field
`params` of State, which no operation writes (notes/assumptions/1.md). -/

namespace Sys2Proof

/-- How the two bytes of a zero-page pointer are addressed: the values of `INDX_PTR_WRAP` and of
`INDY_PTR_WRAP` (R7). -/
inductive PtrWrap where
  /-- pointer address and second byte wrap within the zero page -/
  | zeroPage
  /-- 16-bit addresses, no wrap within the zero page -/
  | none
deriving DecidableEq, Repr

/-- How the subtraction of the coarse page-cross test is computed: the values of `PAGE_CROSS_ARITH`
(R7, R89). -/
inductive PageCrossArith where
  /-- exact integer difference -/
  | signed
  /-- difference modulo 2^16 -/
  | modular
deriving DecidableEq, Repr

/-- `OPCODE_MAP` (30_encoding.md R60, R65): the opcode byte of each of the nine instructions. -/
structure OpcodeMap where
  ldaImm  : Byte
  ldaZp   : Byte
  ldaZpX  : Byte
  ldaAbs  : Byte
  ldaAbsX : Byte
  ldaAbsY : Byte
  ldaIndX : Byte
  ldaIndY : Byte
  jsr     : Byte
deriving DecidableEq, Repr

/-- The four open parameters of R7. -/
structure Params where
  /-- `OPCODE_MAP` -/
  opcodeMap      : OpcodeMap
  /-- `INDX_PTR_WRAP` -/
  indxPtrWrap    : PtrWrap
  /-- `INDY_PTR_WRAP` -/
  indyPtrWrap    : PtrWrap
  /-- `PAGE_CROSS_ARITH` -/
  pageCrossArith : PageCrossArith
deriving DecidableEq, Repr

end Sys2Proof
end

