-- ==== Sys2Proof/Machine/Params.lean ====
section
/-! DEFINITION. The default values of the open parameters (00_scope.md R7, 30_encoding.md R60). -/

namespace Sys2Proof.Machine

/-- The default `OPCODE_MAP`: the standard 6502 values of 30_encoding.md R60. PRESUMED by the spec
itself (92_eei_decisions.md D2); notes/assumptions/2.md. -/
def defaultOpcodeMap : OpcodeMap where
  ldaImm  := 0xA9
  ldaZp   := 0xA5
  ldaZpX  := 0xB5
  ldaAbs  := 0xAD
  ldaAbsX := 0xBD
  ldaAbsY := 0xB9
  ldaIndX := 0xA1
  ldaIndY := 0xB1
  jsr     := 0x20

/-- The default parameters of 00_scope.md R7 (92_eei_decisions.md D2, D6, D7, D8). -/
def defaultParams : Params where
  opcodeMap      := defaultOpcodeMap
  indxPtrWrap    := .zeroPage
  indyPtrWrap    := .none
  pageCrossArith := .signed

end Sys2Proof.Machine
end

