-- ==== Sys2Proof/Syntax.lean ====
section
/-! DEFINITION. The nine admitted instructions (00_scope.md R2, 30_encoding.md R56 to R62). -/

namespace Sys2Proof

/-- An instruction with its operand: one constructor per row of spec/opcode_table.json. A byte operand
is format F2, a word operand format F3 (30_encoding.md R57, R58). -/
inductive Instr where
  /-- `LDA #imm8` (R98) -/
  | ldaImm (imm8 : Byte)
  /-- `LDA zp8` (R99) -/
  | ldaZp (zp8 : Byte)
  /-- `LDA zp8,X` (R100) -/
  | ldaZpX (zp8 : Byte)
  /-- `LDA abs16` (R101) -/
  | ldaAbs (abs16 : Word)
  /-- `LDA abs16,X` (R102) -/
  | ldaAbsX (abs16 : Word)
  /-- `LDA abs16,Y` (R103) -/
  | ldaAbsY (abs16 : Word)
  /-- `LDA (zp8,X)` (R104) -/
  | ldaIndX (zp8 : Byte)
  /-- `LDA (zp8),Y` (R105) -/
  | ldaIndY (zp8 : Byte)
  /-- `JSR abs16` (R107) -/
  | jsr (abs16 : Word)
deriving DecidableEq, Repr

/-- The eight addressing modes of the load-accumulator family (R62, R87). -/
inductive Mode where
  | imm | zp | zpx | abs | absx | absy | indx | indy
deriving DecidableEq, Repr

/-- What an opcode byte alone selects: the (instruction, mode) pairs that `Decode` of R62 answers. -/
inductive Opcode where
  | lda (mode : Mode)
  | jsr
deriving DecidableEq, Repr

/-- The two formats that an admitted instruction has (R57; no admitted instruction has format F1). -/
inductive Format where
  /-- opcode and one operand byte -/
  | f2
  /-- opcode and two operand bytes, low byte first -/
  | f3
deriving DecidableEq, Repr

/-- The opcode of an instruction, its operand left out. -/
def Instr.opcode : Instr → Opcode
  | .ldaImm _  => .lda .imm
  | .ldaZp _   => .lda .zp
  | .ldaZpX _  => .lda .zpx
  | .ldaAbs _  => .lda .abs
  | .ldaAbsX _ => .lda .absx
  | .ldaAbsY _ => .lda .absy
  | .ldaIndX _ => .lda .indx
  | .ldaIndY _ => .lda .indy
  | .jsr _     => .jsr

end Sys2Proof
end

