-- ==== Sys2Proof/WellFormed.lean ====
section
/-! DEFINITION. Well-formedness. An operand is a whole byte or a whole word and every value of it is admitted
(30_encoding.md R57, R58), so EVERY term of Instr is well formed by its type, and Instr needs no check.
The one thing that can be ill formed is the parameter `OPCODE_MAP`, which must be injective (R65). -/

namespace Sys2Proof

/-- The nine opcode bytes in the order of the table of R60. -/
def OpcodeMap.bytes (m : OpcodeMap) : List Byte :=
  [m.ldaImm, m.ldaZp, m.ldaZpX, m.ldaAbs, m.ldaAbsX, m.ldaAbsY, m.ldaIndX, m.ldaIndY, m.jsr]

/-- R65: "Any value of `OPCODE_MAP` must be injective: the nine instructions take nine distinct byte
values." -/
abbrev OpcodeMap.WellFormed (m : OpcodeMap) : Prop := m.bytes.Nodup

/-- Parameters a machine may have: the other three take every value of their types (R7). -/
abbrev Params.WellFormed (p : Params) : Prop := p.opcodeMap.WellFormed

end Sys2Proof
end

