-- ==== Sys2Proof/Decode.lean ====
section
/-! DEFINITION. Decoding and encoding (30_encoding.md), each for any `OPCODE_MAP`, and the assembler notation. -/

namespace Sys2Proof

open Machine

/-! ### Decoding -/

/-- `Decode(op)` of R62: a total function that reads the opcode byte and nothing else (R64). -/
def decodeOpcode (m : OpcodeMap) (op : Byte) : Option Opcode :=
  if op = m.ldaImm then some (.lda .imm)
  else if op = m.ldaZp then some (.lda .zp)
  else if op = m.ldaZpX then some (.lda .zpx)
  else if op = m.ldaAbs then some (.lda .abs)
  else if op = m.ldaAbsX then some (.lda .absx)
  else if op = m.ldaAbsY then some (.lda .absy)
  else if op = m.ldaIndX then some (.lda .indx)
  else if op = m.ldaIndY then some (.lda .indy)
  else if op = m.jsr then some .jsr
  else none

/-- The format column of R60. -/
def Opcode.format : Opcode → Format
  | .lda .imm  => .f2
  | .lda .zp   => .f2
  | .lda .zpx  => .f2
  | .lda .abs  => .f3
  | .lda .absx => .f3
  | .lda .absy => .f3
  | .lda .indx => .f2
  | .lda .indy => .f2
  | .jsr       => .f3

/-- The length of an instruction in bytes, from its opcode alone (R57, R59). -/
def Opcode.length (k : Opcode) : Nat :=
  match k.format with
  | .f2 => 2
  | .f3 => 3

/-- Operand assembly (R58): byte 1 is a byte operand or the low byte of a word operand, byte 2 its high
byte. A format F2 opcode takes no byte 2. -/
def Opcode.assemble (k : Opcode) (b1 b2 : Byte) : Instr :=
  match k with
  | .lda .imm  => .ldaImm b1
  | .lda .zp   => .ldaZp b1
  | .lda .zpx  => .ldaZpX b1
  | .lda .abs  => .ldaAbs (joinBytes b2 b1)
  | .lda .absx => .ldaAbsX (joinBytes b2 b1)
  | .lda .absy => .ldaAbsY (joinBytes b2 b1)
  | .lda .indx => .ldaIndX b1
  | .lda .indy => .ldaIndY b1
  | .jsr       => .jsr (joinBytes b2 b1)

/-- The instruction that three consecutive bytes begin with; `none` exactly when the first is an unknown
opcode (R63, R70). This is what the dispatch loop decodes at PC. -/
def decodeBytes (m : OpcodeMap) (b0 b1 b2 : Byte) : Option Instr :=
  (decodeOpcode m b0).map fun k => k.assemble b1 b2

/-- Why a byte list is rejected. -/
inductive DecodeError where
  /-- the first byte is none of the nine opcodes (R63) -/
  | unknownOpcode (op : Byte)
  /-- the list ends before the instruction does; memory never does, since addresses wrap (R66) -/
  | truncated
deriving DecidableEq, Repr

/-- Decoding of any byte list (R70): the first instruction and the bytes after it, or a named rejection. -/
def decode (m : OpcodeMap) : List Byte → Except DecodeError (Instr × List Byte)
  | [] => .error .truncated
  | op :: rest =>
    match decodeOpcode m op with
    | none => .error (.unknownOpcode op)
    | some k =>
      match k.format, rest with
      | .f2, b1 :: rest => .ok (k.assemble b1 0, rest)
      | .f3, b1 :: b2 :: rest => .ok (k.assemble b1 b2, rest)
      | _, _ => .error .truncated

/-! ### Encoding -/

/-- `OPCODE_MAP(k)`: the opcode byte of R60. -/
def OpcodeMap.byteOf (m : OpcodeMap) : Opcode → Byte
  | .lda .imm  => m.ldaImm
  | .lda .zp   => m.ldaZp
  | .lda .zpx  => m.ldaZpX
  | .lda .abs  => m.ldaAbs
  | .lda .absx => m.ldaAbsX
  | .lda .absy => m.ldaAbsY
  | .lda .indx => m.ldaIndX
  | .lda .indy => m.ldaIndY
  | .jsr       => m.jsr

/-- The operand bytes of an instruction in memory order (R57): a word operand low byte first (R47, R68). -/
def Instr.operandBytes : Instr → List Byte
  | .ldaImm v  => [v]
  | .ldaZp v   => [v]
  | .ldaZpX v  => [v]
  | .ldaAbs w  => [lowByte w, highByte w]
  | .ldaAbsX w => [lowByte w, highByte w]
  | .ldaAbsY w => [lowByte w, highByte w]
  | .ldaIndX v => [v]
  | .ldaIndY v => [v]
  | .jsr w     => [lowByte w, highByte w]

/-- The bytes of an instruction (R57): opcode, then operand bytes. -/
def encode (m : OpcodeMap) (i : Instr) : List Byte :=
  m.byteOf i.opcode :: i.operandBytes

/-! ### The opcode table's numbering -/

/-- Byte `k` of a table word: bits 8k+7..8k. -/
def tableByte (w k : Nat) : Byte := BitVec.ofNat 8 (w / 256 ^ k)

/-- The three bytes at the lowest address first that a table word of `nbits` bits stands for; the bits at
and above `nbits` are 0. -/
def tableBytes (nbits w : Nat) : List Byte :=
  let w := w % 2 ^ nbits
  [tableByte w 0, tableByte w 1, tableByte w 2]

/-- The instruction the decoder reads, under the default map, from a word numbered as
spec/opcode_table.json numbers it. -/
def decodeTableWord (nbits w : Nat) : Option Instr :=
  match decode defaultOpcodeMap (tableBytes nbits w) with
  | .ok (i, _) => some i
  | .error _   => none

/-! ### Assembler notation (30_encoding.md R68 to R70): text only, no behaviour -/

/-- The hexadecimal digit of a nibble. -/
def hexDigit (n : BitVec 4) : Char :=
  if n.toNat < 10 then Char.ofNat (48 + n.toNat) else Char.ofNat (55 + n.toNat)

/-- `$nn` (R68). -/
def hexByte (v : Byte) : List Char :=
  ['$', hexDigit (v.extractLsb' 4 4), hexDigit (v.extractLsb' 0 4)]

/-- `$nnnn` (R68). -/
def hexWord (v : Word) : List Char :=
  ['$', hexDigit (v.extractLsb' 12 4), hexDigit (v.extractLsb' 8 4),
    hexDigit (v.extractLsb' 4 4), hexDigit (v.extractLsb' 0 4)]

/-- The conventional notation of R68, as a list of characters. -/
def Instr.notationChars : Instr → List Char
  | .ldaImm v  => ['L', 'D', 'A', ' ', '#'] ++ hexByte v
  | .ldaZp v   => ['L', 'D', 'A', ' '] ++ hexByte v
  | .ldaZpX v  => ['L', 'D', 'A', ' '] ++ hexByte v ++ [',', 'X']
  | .ldaAbs w  => ['L', 'D', 'A', ' '] ++ hexWord w
  | .ldaAbsX w => ['L', 'D', 'A', ' '] ++ hexWord w ++ [',', 'X']
  | .ldaAbsY w => ['L', 'D', 'A', ' '] ++ hexWord w ++ [',', 'Y']
  | .ldaIndX v => ['L', 'D', 'A', ' ', '('] ++ hexByte v ++ [',', 'X', ')']
  | .ldaIndY v => ['L', 'D', 'A', ' ', '('] ++ hexByte v ++ [')', ',', 'Y']
  | .jsr w     => ['J', 'S', 'R', ' '] ++ hexWord w

/-- What a disassembler shows for the bytes at an address: the instruction, or `.byte $nn` for an unknown
opcode (R70). -/
def disassemble (m : OpcodeMap) (b0 b1 b2 : Byte) : List Char :=
  match decodeBytes m b0 b1 b2 with
  | some i => i.notationChars
  | none   => ['.', 'b', 'y', 't', 'e', ' '] ++ hexByte b0

end Sys2Proof
end

