-- ==== Sys2Proof/Machine/Memory.lean ====
section
/-! DEFINITION. The memory of 65536 byte cells (10_state.md R29), held as a canonical list of the cells that are
not 0x00, and its raw primitives MemRead, MemWrite and MemInit (20_memory.md R38 to R40). -/

namespace Sys2Proof.Machine

/-- Memory: the listed cells in rising address order. -/
abbrev Memory := List Host.Cell

/-- What an unlisted address reads as: 0x00, the reset contents of every cell (R33, R40). -/
def Memory.blank : Byte := 0x00

/-- The canonical form: addresses strictly rising and below 65536, no listed cell blank. -/
def Memory.wf (m : Memory) : Bool :=
  decide (m.Pairwise (fun c d => c.1 < d.1) ∧ ∀ c ∈ m, c.1 < 65536 ∧ c.2 ≠ Memory.blank)

/-- The byte listed at a key, or the blank. -/
def Memory.get (m : Memory) (k : Nat) : Byte :=
  match m with
  | [] => Memory.blank
  | (k', v') :: rest => if k = k' then v' else Memory.get rest k

/-- A cell in front of a list; a blank cell is left out. -/
def Memory.cons (k : Nat) (v : Byte) (rest : Memory) : Memory :=
  if v = Memory.blank then rest else (k, v) :: rest

/-- The list with the cell at a key set, in canonical form again. -/
def Memory.set (m : Memory) (k : Nat) (v : Byte) : Memory :=
  match m with
  | [] => Memory.cons k v []
  | (k', v') :: rest =>
    if k < k' then Memory.cons k v ((k', v') :: rest)
    else if k = k' then Memory.cons k v rest
    else (k', v') :: Memory.set rest k v

/-- `MemRead(addr, 1)` (R38). Every bits16 address names a cell (R37). -/
def Memory.read (m : Memory) (a : Word) : Byte := Memory.get m a.toNat

/-- `MemWrite(addr, 1, v)` (R39). -/
def Memory.write (m : Memory) (a : Word) (v : Byte) : Memory := Memory.set m a.toNat v

/-- `MemInit()` (R40): every cell 0x00. -/
def Memory.init : Memory := []

end Sys2Proof.Machine
end

