-- ==== Sys2Proof/Machine/State.lean ====
section
/-! DEFINITION. The state of the core and its memory (10_state.md), the failure and refusal reasons, and the state
after reset (R33, 70_reset_and_hazards.md R131). -/

namespace Sys2Proof.Machine

/-- The failure an `Execute` ends with (00_scope.md R12, 60_exceptions.md R113, R116). It is a RESULT that
the machine records and goes on from (R85, R117): `step` answers a next state that holds it, never
`Outcome.fault` (notes/assumptions/4.md). -/
inductive Fault where
  /-- Raised by the dispatch loop in DECODE when the fetched opcode is none of the nine; carries the opcode
  and nothing else (R116). Safe: it is the spec's own failure, with the spec's own state. -/
  | unknownOpcode (op : Byte)
deriving DecidableEq, Repr

/-- Why the model gives no answer. -/
inductive Refusal where
  /-- Raised by an arm of exec that has no meaning yet (none is left). Safe. -/
  | notModelled (mnemonic : String)
  /-- Raised by `step` and by every host operation but Reset on a core that was never reset: the spec refuses
  them (40_execute.md R84). Safe. -/
  | unreset
  /-- Raised by every host operation on a state inside an `Execute`: the host cannot act there
  (40_execute.md R72). Safe. -/
  | busy
deriving DecidableEq, Repr

/-- The lifecycle status (R28). -/
inductive Status where
  | unreset
  | ready
deriving DecidableEq, Repr

/-- The seven flags, independent Booleans (R22, R25). -/
structure Flags where
  /-- Carry -/
  c : Bool
  /-- Zero -/
  z : Bool
  /-- Interrupt-Disable -/
  i : Bool
  /-- Decimal -/
  d : Bool
  /-- Break -/
  b : Bool
  /-- Overflow -/
  v : Bool
  /-- Negative -/
  n : Bool
deriving DecidableEq, Repr

/-- The execution-control state (R27): the budget `req` and the remaining-cycle counter `cyc` exist only
inside one `Execute`; both are integers (00_scope.md R8). -/
inductive Control where
  /-- between operations: state IDLE of 40_execute.md R80 -/
  | idle
  /-- inside `Execute`, about to test `cyc > 0`: state CHECK of R80 -/
  | executing (req cyc : Int)
deriving DecidableEq, Repr

/-- What an `Execute` returns (40_execute.md R71). -/
inductive ExecResult where
  /-- `Ok(used)` -/
  | ok (used : Int)
  /-- `Fail(UnknownOpcode(op))` -/
  | fail (reason : Fault)
deriving DecidableEq, Repr

/-- The whole machine: the architectural state of R15, the memory of R29, the execution-control state of
R27 and R28, the result the host sees of the last `Execute` (R34), and the parameters of R7. -/
structure State where
  /-- lifecycle status (R28) -/
  status  : Status
  /-- program counter (R20, R21) -/
  pc      : Word
  /-- stack pointer, a raw zero-based address (R19) -/
  sp      : Byte
  /-- accumulator (R16) -/
  a       : Byte
  /-- index register X (R17) -/
  x       : Byte
  /-- index register Y (R18) -/
  y       : Byte
  /-- the seven flags (R22) -/
  flags   : Flags
  /-- the memory (R29) -/
  mem     : Memory
  /-- `req` and `cyc` (R27) -/
  control : Control
  /-- the result of the last `Execute` that ended since Reset or since the last `Execute` began; the model's
  own field for what the host sees (R34), notes/assumptions/5.md -/
  result  : Option ExecResult
  /-- the open parameters of R7; fixed, written by no operation, notes/assumptions/1.md -/
  params  : Params
deriving DecidableEq, Repr

/-- All flags false (R33). -/
def Flags.reset : Flags := ⟨false, false, false, false, false, false, false⟩

/-- The state after reset for given parameters (R33, R131). PC is the constant 0xFFFC; no vector is read
(R133). -/
def State.resetWith (p : Params) : State where
  status  := .ready
  pc      := 0xFFFC
  sp      := 0xFF
  a       := 0x00
  x       := 0x00
  y       := 0x00
  flags   := Flags.reset
  mem     := Memory.init
  control := .idle
  result  := none
  params  := p

/-- The state after reset under the default parameters. -/
def State.reset : State := State.resetWith defaultParams

end Sys2Proof.Machine
end

