-- ==== Sys2Proof/Machine/Ops.lean ====
section
/-! DEFINITION. The named operations that every meaning is made of: charges, the charged memory primitives
(20_memory.md R41 to R45), the read of the instruction at PC, and the two ways an `Execute` ends. -/

namespace Sys2Proof.Machine

/-! ### Updates of one piece of state -/

/-- `cyc <- cyc - n` (R10, R27). Outside an `Execute` there is no counter to charge. -/
def Control.charge (n : Nat) : Control → Control
  | .idle => .idle
  | .executing req cyc => .executing req (cyc - n)

/-- Charge n cycles and change nothing else. -/
def State.charge (n : Nat) (s : State) : State := { s with control := s.control.charge n }

/-- `PC <- PC +16 n` (R21, wrapping, 92_eei_decisions.md D4). -/
def State.advance (n : Nat) (s : State) : State := { s with pc := s.pc + BitVec.ofNat 16 n }

/-- `PC <- v`. -/
def State.setPc (v : Word) (s : State) : State := { s with pc := v }

/-- `SP <- v`. -/
def State.setSp (v : Byte) (s : State) : State := { s with sp := v }

/-- `MemWrite(a, 1, v)`: charges nothing (R39). -/
def State.writeMem (a : Word) (v : Byte) (s : State) : State := { s with mem := s.mem.write a v }

/-! ### The charged primitives: the value read, and the state after -/

/-- `FetchByte()` (R41). -/
def fetchByte (s : State) : Byte × State :=
  (s.mem.read s.pc, (s.advance 1).charge 1)

/-- `FetchWord()` (R42): little-endian, the second byte at PC +16 1. -/
def fetchWord (s : State) : Word × State :=
  (joinBytes (s.mem.read (s.pc + 1)) (s.mem.read s.pc), (s.advance 2).charge 2)

/-- `ReadByte(addr)` (R43). -/
def readByte (a : Word) (s : State) : Byte × State :=
  (s.mem.read a, s.charge 1)

/-- `ReadWord(addr)` (R44): two chained `ReadByte`s, low byte first. -/
def readWord (a : Word) (s : State) : Word × State :=
  let lo := readByte a s
  let hi := readByte (a + 1) lo.2
  (joinBytes hi.1 lo.1, hi.2)

/-- `WriteWord(addr, v)` (R45): low byte at addr, high byte at addr +16 1, 2 cycles. -/
def writeWord (a : Word) (v : Word) (s : State) : State :=
  ((s.writeMem a (lowByte v)).writeMem (a + 1) (highByte v)).charge 2

/-! ### Fetching an instruction -/

/-- The state after the loop's opcode fetch (40_execute.md R73). -/
def fetchOpcode (s : State) : State := (fetchByte s).2

/-- The state after the fetches of a format F2 instruction: opcode, one operand byte (R57, R67). The operand
itself is the one that was decoded from the same bytes. -/
def fetchedF2 (s : State) : State := (fetchByte (fetchOpcode s)).2

/-- The state after the fetches of a format F3 instruction: opcode, operand word (R57, R67). -/
def fetchedF3 (s : State) : State := (fetchWord (fetchOpcode s)).2

/-- The instruction at PC: its bytes are at PC, PC +16 1 and PC +16 2 (R57, R66). `none`: the byte at PC is
an unknown opcode. -/
def instrAt (s : State) : Option Instr :=
  decodeBytes s.params.opcodeMap (s.mem.read s.pc) (s.mem.read (s.pc + 1)) (s.mem.read (s.pc + 2))

/-! ### The ends of an `Execute` -/

/-- `Execute(n)` begins (R73): req <- n, cyc <- n. -/
def beginExecute (n : Int) (s : State) : State :=
  { s with control := .executing n n, result := none }

/-- `raise UnknownOpcode(op)` (60_exceptions.md R116 to R121): the call ends with the failure; nothing is
saved, no vector is read, no control is transferred, no count is returned. There is no return from it: the
core stays Ready and a later `Execute` goes on from PC (R85, R122). -/
def raiseUnknownOpcode (op : Byte) (s : State) : State :=
  { s with control := .idle, result := some (.fail (.unknownOpcode op)) }

/-- The pass of the loop that meets an unknown opcode: the opcode is fetched, then the failure is raised
(R117). -/
def failAtPc (s : State) : State :=
  let r := fetchByte s
  raiseUnknownOpcode r.1 r.2

/-- `return Ok(req - cyc)` (R73, R76). -/
def finishExecute (req cyc : Int) (s : State) : State :=
  { s with control := .idle, result := some (.ok (req - cyc)) }

/-! ### Placing an instruction where the next step fetches it -/

/-- The bytes stored from an address on, addresses wrapping. -/
def State.writeBytes (a : Word) (bs : List Byte) (s : State) : State :=
  match bs with
  | [] => s
  | b :: rest => State.writeBytes (a + 1) rest (s.writeMem a b)

/-- A control state in which the next pass of the loop fetches an instruction: the one at hand if its
counter is positive, else that of a fresh `Execute(1)`, which runs exactly one instruction
(60_exceptions.md R129). -/
def Control.readyToFetch : Control → Control
  | .idle => .executing 1 1
  | .executing req cyc => if 0 < cyc then .executing req cyc else .executing 1 1

/-- The state with an opcode-table word stored at PC and an `Execute` under way. -/
def placeTableWord (s : State) (nbits w : Nat) : State :=
  { s.writeBytes s.pc (tableBytes nbits w) with
    status := .ready, control := s.control.readyToFetch }

end Sys2Proof.Machine
end

