-- ==== Sys2Proof/Machine/Jump.lean ====
section
/-! DEFINITION. Jump-to-subroutine (42_jump_subroutine.md R107 to R112), the only control transfer. -/

namespace Sys2Proof.Machine

/-- The body of `JSR` after its operand word t is fetched (R107): the word PC -16 1 is stored at zext16(SP),
with no page offset (R109), SP is lowered by 2 modulo 256 (R110), PC is the target, and the internal operation is
charged 1. -/
def jumpSubroutine (t : Word) (s : State) : State :=
  let w := writeWord (zext16 s.sp) (s.pc - 1) s
  ((w.setSp (w.sp - 2)).setPc t).charge 1

/-- `JSR abs16` (R107), from the state whose PC is the address of the opcode. -/
def execJsr (abs16 : Word) (s : State) : Host.Outcome State Fault Refusal :=
  .next (jumpSubroutine abs16 (fetchedF3 s))

end Sys2Proof.Machine
end

