-- ==== Sys2Proof/Machine/Flags.lean ====
section
/-! DEFINITION. The flag computations: Z and N after a load (41_load_accumulator.md R88, 10_state.md R23). No other
flag is ever computed (R24). -/

namespace Sys2Proof.Machine

/-- Z <- (v = 0x00). -/
def zeroFlag (v : Byte) : Bool := v == 0x00

/-- N <- (v[7] = 1). -/
def negativeFlag (v : Byte) : Bool := v.getLsbD 7

/-- The flags after a load of v: Z and N written, C, I, D, B and V kept (R88). -/
def loadFlags (v : Byte) (f : Flags) : Flags :=
  { f with z := zeroFlag v, n := negativeFlag v }

/-- `LoadA(v)` (R88): the accumulator and two flags; no charge. -/
def loadA (v : Byte) (s : State) : State :=
  { s with a := v, flags := loadFlags v s.flags }

end Sys2Proof.Machine
end

