-- ==== Sys2Proof/Machine/Operands.lean ====
section
/-! DEFINITION. The eight addressing modes (41_load_accumulator.md R89 to R97). Each `resolve…` takes the operand
that the mode's FetchByte or FetchWord returned and the state after that fetch, and answers the byte the mode
resolves to and the state after the mode's other charges, in the order of the rule's pseudocode. -/

namespace Sys2Proof.Machine

/-- `PageCrossCoarse(base, ea)` (R89), under each value of `PAGE_CROSS_ARITH`. Not the comparison of high
bytes. -/
def pageCrossCoarse (arith : PageCrossArith) (base ea : Word) : Bool :=
  match arith with
  | .signed  => decide ((ea.toNat : Int) - (base.toNat : Int) ≥ 255)
  | .modular => decide ((ea - base).toNat ≥ 255)

/-- The data read of an indexed mode at `base +16 zext16(idx)`, and the page-cross penalty after it
(R94, R95, R97). -/
def readIndexed (base : Word) (idx : Byte) (s : State) : Byte × State :=
  let ea := base + zext16 idx
  let r := readByte ea s
  if pageCrossCoarse s.params.pageCrossArith base ea then (r.1, r.2.charge 1) else r

/-- A pointer whose two bytes are both in the zero page (R96, R97 under `zero_page`): 0xFF is followed by
0x00. -/
def readZeroPagePointer (p : Byte) (s : State) : Word × State :=
  let lo := readByte (zext16 p) s
  let hi := readByte (zext16 (p + 1)) lo.2
  (joinBytes hi.1 lo.1, hi.2)

/-- R90 after its fetch: the operand byte is the value. -/
def resolveImm (imm8 : Byte) (s : State) : Byte × State := (imm8, s)

/-- R91 after its fetch. -/
def resolveZp (zp : Byte) (s : State) : Byte × State := readByte (zext16 zp) s

/-- R92 after its fetch: the index addition wraps within a byte and is charged 1. -/
def resolveZpX (zp : Byte) (s : State) : Byte × State :=
  readByte (zext16 (zp + s.x)) (s.charge 1)

/-- R93 after its fetch. -/
def resolveAbs (a : Word) (s : State) : Byte × State := readByte a s

/-- R94 after its fetch. -/
def resolveAbsX (base : Word) (s : State) : Byte × State := readIndexed base s.x s

/-- R95 after its fetch. -/
def resolveAbsY (base : Word) (s : State) : Byte × State := readIndexed base s.y s

/-- The pointer of (Indirect,X) under `INDX_PTR_WRAP` (R96). -/
def indxPointer (zp : Byte) (s : State) : Word × State :=
  match s.params.indxPtrWrap with
  | .zeroPage => readZeroPagePointer (zp + s.x) s
  | .none     => readWord (zext16 zp + zext16 s.x) s

/-- R96 after its fetch: the index addition is charged 1, then the pointer and the value are read. -/
def resolveIndX (zp : Byte) (s : State) : Byte × State :=
  let p := indxPointer zp (s.charge 1)
  readByte p.1 p.2

/-- The pointer of (Indirect),Y under `INDY_PTR_WRAP` (R97). -/
def indyPointer (zp : Byte) (s : State) : Word × State :=
  match s.params.indyPtrWrap with
  | .none     => readWord (zext16 zp) s
  | .zeroPage => readZeroPagePointer zp s

/-- R97 after its fetch. -/
def resolveIndY (zp : Byte) (s : State) : Byte × State :=
  let p := indyPointer zp s
  readIndexed p.1 p.2.y p.2

end Sys2Proof.Machine
end

