-- ==== Sys2Proof/Machine/Load.lean ====
section
/-! DEFINITION. The load-accumulator family (41_load_accumulator.md R98 to R105). Each meaning takes the state whose
PC is the address of the opcode, and has the whole cost and PC advance of its rule: the loop's opcode fetch and
the operand fetch first, then the mode's reads, then LoadA. -/

namespace Sys2Proof.Machine

/-- `v <- Resolve…(); LoadA(v)`: the last step of every load (R87). -/
def loadResolved (r : Byte × State) : Host.Outcome State Fault Refusal :=
  .next (loadA r.1 r.2)

/-- `LDA #imm8` (R98) -/
def execLdaImm (imm8 : Byte) (s : State) : Host.Outcome State Fault Refusal :=
  loadResolved (resolveImm imm8 (fetchedF2 s))

/-- `LDA zp8` (R99) -/
def execLdaZp (zp8 : Byte) (s : State) : Host.Outcome State Fault Refusal :=
  loadResolved (resolveZp zp8 (fetchedF2 s))

/-- `LDA zp8,X` (R100) -/
def execLdaZpX (zp8 : Byte) (s : State) : Host.Outcome State Fault Refusal :=
  loadResolved (resolveZpX zp8 (fetchedF2 s))

/-- `LDA abs16` (R101) -/
def execLdaAbs (abs16 : Word) (s : State) : Host.Outcome State Fault Refusal :=
  loadResolved (resolveAbs abs16 (fetchedF3 s))

/-- `LDA abs16,X` (R102) -/
def execLdaAbsX (abs16 : Word) (s : State) : Host.Outcome State Fault Refusal :=
  loadResolved (resolveAbsX abs16 (fetchedF3 s))

/-- `LDA abs16,Y` (R103) -/
def execLdaAbsY (abs16 : Word) (s : State) : Host.Outcome State Fault Refusal :=
  loadResolved (resolveAbsY abs16 (fetchedF3 s))

/-- `LDA (zp8,X)` (R104) -/
def execLdaIndX (zp8 : Byte) (s : State) : Host.Outcome State Fault Refusal :=
  loadResolved (resolveIndX zp8 (fetchedF2 s))

/-- `LDA (zp8),Y` (R105) -/
def execLdaIndY (zp8 : Byte) (s : State) : Host.Outcome State Fault Refusal :=
  loadResolved (resolveIndY zp8 (fetchedF2 s))

end Sys2Proof.Machine
end

