-- ==== Sys2Proof/Machine/Step.lean ====
section
/-! DEFINITION. One step: one pass of the dispatch loop of 40_execute.md R73, from CHECK to CHECK, or to IDLE where
the call ends (R80). -/

namespace Sys2Proof.Machine

/-- One step of the machine.
* never reset: refused (R84);
* between operations (IDLE): the core has no step there and keeps all its state (R72, R130);
* inside `Execute` with cyc > 0: the instruction at PC runs whole, or its opcode is unknown and the call
  fails (R73, R74, R79);
* inside `Execute` with cyc ≤ 0: the call returns (R76). -/
def step (s : State) : Host.Outcome State Fault Refusal :=
  match s.status with
  | .unreset => .refused .unreset
  | .ready =>
    match s.control with
    | .idle => .next s
    | .executing req cyc =>
      if 0 < cyc then
        match instrAt s with
        | some i => exec i s
        | none   => .next (failAtPc s)
      else .next (finishExecute req cyc s)

/-- s with an opcode-table word stored at PC, the core Ready and an `Execute` under way, so that the next step
runs that word's instruction (notes/assumptions/6.md). -/
def State.withFetchWord (s : State) (nbits w : Nat) : State := placeTableWord s nbits w

end Sys2Proof.Machine
end

