-- ==== Sys2Proof/Machine/HostInterface.lean ====
section
/-! DEFINITION. The host's operations (40_execute.md R71 to R86, 70_reset_and_hazards.md R131 to R135), each atomic,
each a function of the state; and the state before the first reset. -/

namespace Sys2Proof.Machine

/-- The byte registers the host reaches (R71). -/
inductive ByteReg where
  | a | x | y | sp
deriving DecidableEq, Repr

/-- The flags the host reaches (R71). -/
inductive FlagReg where
  | c | z | i | d | b | v | n
deriving DecidableEq, Repr

/-- The operations of R71; HostReadReg and HostWriteReg are split by the width of the register. -/
inductive HostOp where
  | reset
  | execute (n : Int)
  | readMem (a : Word)
  | writeMem (a : Word) (v : Byte)
  | readByteReg (r : ByteReg)
  | writeByteReg (r : ByteReg) (v : Byte)
  | readPc
  | writePc (v : Word)
  | readFlag (f : FlagReg)
  | writeFlag (f : FlagReg) (b : Bool)
deriving DecidableEq, Repr

/-- What an operation returns to the host (the result column of R71). -/
inductive HostReply where
  | done
  | byte (v : Byte)
  | word (v : Word)
  | bit (b : Bool)
  /-- the result of `Execute`; it is never `none` (R78, R86) -/
  | result (r : Option ExecResult)
deriving DecidableEq, Repr

/-- An operation is carried out, or refused with nothing changed. -/
inductive HostOutcome where
  | reply (r : HostReply) (s : State)
  | refused (r : Refusal)
deriving DecidableEq, Repr

/-! ### Register access (R82) -/

def State.byteReg (s : State) : ByteReg → Byte
  | .a  => s.a
  | .x  => s.x
  | .y  => s.y
  | .sp => s.sp

def State.setByteReg (s : State) (r : ByteReg) (v : Byte) : State :=
  match r with
  | .a  => { s with a := v }
  | .x  => { s with x := v }
  | .y  => { s with y := v }
  | .sp => { s with sp := v }

def Flags.get (fl : Flags) : FlagReg → Bool
  | .c => fl.c
  | .z => fl.z
  | .i => fl.i
  | .d => fl.d
  | .b => fl.b
  | .v => fl.v
  | .n => fl.n

def Flags.set (fl : Flags) (f : FlagReg) (b : Bool) : Flags :=
  match f with
  | .c => { fl with c := b }
  | .z => { fl with z := b }
  | .i => { fl with i := b }
  | .d => { fl with d := b }
  | .b => { fl with b := b }
  | .v => { fl with v := b }
  | .n => { fl with n := b }

/-! ### Reset and Execute -/

/-- `Reset()` (R131): every piece of state takes its reset value, whatever it was (R132). The parameters of
the machine are no state and stay. -/
def resetOp (s : State) : State := State.resetWith s.params

/-- At most `fuel` passes of the loop, stopping when the call has ended. -/
def runLoop (fuel : Nat) (s : State) : State :=
  match fuel with
  | 0 => s
  | k + 1 =>
    match s.control with
    | .idle => s
    | .executing _ _ =>
      match step s with
      | .next t => runLoop k t
      | .fault _ => s
      | .refused _ => s

/-- `Execute(n)` as one atomic operation (R72, R73): at most n passes run an instruction (R78), and one more
returns. -/
def execute (n : Int) (s : State) : State := runLoop (n.toNat + 1) (beginExecute n s)

/-! ### The interface -/

/-- The operations of a Ready core in IDLE. -/
def hostReady (op : HostOp) (s : State) : HostOutcome :=
  match op with
  | .reset            => .reply .done (resetOp s)
  | .execute n        => .reply (.result (execute n s).result) (execute n s)
  | .readMem a        => .reply (.byte (s.mem.read a)) s
  | .writeMem a v     => .reply .done (s.writeMem a v)
  | .readByteReg r    => .reply (.byte (s.byteReg r)) s
  | .writeByteReg r v => .reply .done (s.setByteReg r v)
  | .readPc           => .reply (.word s.pc) s
  | .writePc v        => .reply .done (s.setPc v)
  | .readFlag f       => .reply (.bit (s.flags.get f)) s
  | .writeFlag f b    => .reply .done { s with flags := s.flags.set f b }

/-- One host operation (R71): none can act inside an `Execute` (R72); before the first reset only Reset is
carried out (R84). -/
def host (op : HostOp) (s : State) : HostOutcome :=
  match s.control with
  | .executing _ _ => .refused .busy
  | .idle =>
    match s.status with
    | .ready => hostReady op s
    | .unreset =>
      match op with
      | .reset => .reply .done (resetOp s)
      | .execute _ => .refused .unreset
      | .readMem _ => .refused .unreset
      | .writeMem _ _ => .refused .unreset
      | .readByteReg _ => .refused .unreset
      | .writeByteReg _ _ => .refused .unreset
      | .readPc => .refused .unreset
      | .writePc _ => .refused .unreset
      | .readFlag _ => .refused .unreset
      | .writeFlag _ _ => .refused .unreset

/-- The state after an operation; a refused one changes nothing. -/
def HostOutcome.after (s : State) : HostOutcome → State
  | .reply _ t => t
  | .refused _ => s

/-- A session: the host's operations one at a time, each completed before the next begins (R72). -/
def session (ops : List HostOp) (s : State) : State :=
  match ops with
  | [] => s
  | op :: rest => session rest ((host op s).after s)

/-- The core before its first reset (R28, R84). Its registers and memory hold no value the spec gives: what
stands in the record cannot be read by any operation (notes/assumptions/7.md). -/
def State.neverReset (p : Params) : State := { State.resetWith p with status := .unreset }

end Sys2Proof.Machine
end

