-- ==== Sys2Proof/Machine/Loop.lean ====
section
/-! DEFINITION. The cycle-accounting state machine of 40_execute.md R80, transcribed transition by transition, with
handlers that fetch their own operands as the pseudocode of R90 to R97 and R107 does. `step` is one whole pass of
it; an obligation says so. -/

namespace Sys2Proof.Machine

/-- The states of R80. -/
inductive LoopState where
  | idle
  | check
  | fetch
  | decode (op : Byte)
  | exec (k : Opcode)
  | done
  | fail (op : Byte)
deriving DecidableEq, Repr

/-- A byte operand fetched, then used. -/
def withByteOperand (f : Byte → State → Byte × State) (s : State) : Byte × State :=
  let r := fetchByte s
  f r.1 r.2

/-- A word operand fetched, then used. -/
def withWordOperand (f : Word → State → Byte × State) (s : State) : Byte × State :=
  let r := fetchWord s
  f r.1 r.2

/-- `Resolve…()` of R90 to R97, its operand fetch included. -/
def resolveMode : Mode → State → Byte × State
  | .imm  => withByteOperand resolveImm
  | .zp   => withByteOperand resolveZp
  | .zpx  => withByteOperand resolveZpX
  | .abs  => withWordOperand resolveAbs
  | .absx => withWordOperand resolveAbsX
  | .absy => withWordOperand resolveAbsY
  | .indx => withByteOperand resolveIndX
  | .indy => withByteOperand resolveIndY

/-- The handler of an opcode, from the state after the opcode fetch (R73). -/
def handler : Opcode → State → State
  | .lda mode, s =>
    let r := resolveMode mode s
    loadA r.1 r.2
  | .jsr, s =>
    let t := fetchWord s
    jumpSubroutine t.1 t.2

/-- One transition of R80. Only CHECK reads cyc; only DONE reports it. -/
def LoopState.advance : LoopState × State → LoopState × State
  | (.idle, s) => (.idle, s)
  | (.check, s) =>
    match s.control with
    | .idle => (.idle, s)
    | .executing _ cyc => if 0 < cyc then (.fetch, s) else (.done, s)
  | (.fetch, s) =>
    let r := fetchByte s
    (.decode r.1, r.2)
  | (.decode op, s) =>
    match decodeOpcode s.params.opcodeMap op with
    | some k => (.exec k, s)
    | none   => (.fail op, s)
  | (.exec k, s) => (.check, handler k s)
  | (.done, s) =>
    match s.control with
    | .idle => (.idle, s)
    | .executing req cyc => (.idle, finishExecute req cyc s)
  | (.fail op, s) => (.idle, raiseUnknownOpcode op s)

end Sys2Proof.Machine
end

