-- ==== Sys2Proof/Safety.lean ====
section
/-! DEFINITION. What every state that a run reaches satisfies, and the vocabulary that claims about instructions and
runs are stated in. Each definition is written from the rule it cites, not from the meanings. -/

namespace Sys2Proof

open Machine

/-! ### The invariant -/

/-- The counter never exceeds the budget, and unless it still is the budget it is at least -5
(00_scope.md R8, 40_execute.md R77). -/
abbrev Machine.Control.Legal (c : Control) : Prop :=
  match c with
  | .idle => True
  | .executing req cyc => cyc ≤ req ∧ (cyc = req ∨ -5 ≤ cyc)

/-- An `Ok` count is not negative (R75, R77); a recorded failure carries a byte that is no opcode (R116). -/
abbrev Machine.ExecResult.Legal (m : OpcodeMap) (r : ExecResult) : Prop :=
  match r with
  | .ok used => 0 ≤ used
  | .fail (.unknownOpcode op) => decodeOpcode m op = none

/-- The invariant of the machine. It restricts no register and no flag, and memory only in how it is written
down (10_state.md R30). -/
structure Machine.State.Inv (s : State) : Prop where
  mem_wf       : Memory.wf s.mem
  params_wf    : s.params.WellFormed
  control      : s.control.Legal
  result       : ∀ r, s.result = some r → r.Legal s.params.opcodeMap
  unreset_idle : s.status = .unreset → s.control = .idle

/-! ### A state about to run an instruction -/

/-- Inside an `Execute` with cyc > 0: the loop goes on to FETCH (40_execute.md R80). -/
def Machine.Control.positive (c : Control) : Bool :=
  match c with
  | .idle => false
  | .executing _ cyc => decide (0 < cyc)

/-- The n bytes at PC, addresses wrapping (30_encoding.md R57, R66). -/
def Machine.State.bytesAtPc (s : State) (n : Nat) : List Byte :=
  (List.range n).map fun k => s.mem.read (s.pc + BitVec.ofNat 16 k)

/-- A Ready core inside an `Execute` with cyc > 0, its opcode map injective (R65), the bytes `bs` at PC. -/
abbrev Machine.State.AboutToRun (s : State) (bs : List Byte) : Prop :=
  s.status = .ready ∧ s.control.positive = true ∧ s.params.WellFormed ∧ s.bytesAtPc bs.length = bs

/-! ### Addresses, penalties and costs, as the rules give them -/

/-- The page-cross penalty of an indexed read at ea = base +16 zext16(idx), by the subtraction of R89 as
`PAGE_CROSS_ARITH` computes it. -/
def penalty (arith : PageCrossArith) (base : Word) (idx : Byte) : Nat :=
  let ea := base + zext16 idx
  match arith with
  | .signed  => if (ea.toNat : Int) - (base.toNat : Int) ≥ 255 then 1 else 0
  | .modular => if (ea - base).toNat ≥ 255 then 1 else 0

/-- The addresses of the two pointer bytes of (Indirect,X), low first (R96). -/
def indxPointerAddrs (s : State) (zp : Byte) : Word × Word :=
  match s.params.indxPtrWrap with
  | .zeroPage => (zext16 (zp + s.x), zext16 (zp + s.x + 1))
  | .none     => (zext16 zp + zext16 s.x, zext16 zp + zext16 s.x + 1)

/-- The addresses of the two pointer bytes of (Indirect),Y, low first (R97). -/
def indyPointerAddrs (s : State) (zp : Byte) : Word × Word :=
  match s.params.indyPtrWrap with
  | .none     => (zext16 zp, zext16 zp + 1)
  | .zeroPage => (zext16 zp, zext16 (zp + 1))

/-- The little-endian word at a pair of addresses (R47). -/
def wordAt (m : Memory) (addrs : Word × Word) : Word :=
  joinBytes (m.read addrs.2) (m.read addrs.1)

/-- The addresses that an instruction reads data or a pointer from, its own bytes apart (R90 to R97, R49):
"A load reads only the addresses its mode names" (R106). -/
def Instr.dataAddrs (s : State) (i : Instr) : List Word :=
  match i with
  | .ldaImm _     => []
  | .ldaZp zp     => [zext16 zp]
  | .ldaZpX zp    => [zext16 (zp + s.x)]
  | .ldaAbs a     => [a]
  | .ldaAbsX base => [base + zext16 s.x]
  | .ldaAbsY base => [base + zext16 s.y]
  | .ldaIndX zp   =>
    let p := indxPointerAddrs s zp
    [p.1, p.2, wordAt s.mem p]
  | .ldaIndY zp   =>
    let p := indyPointerAddrs s zp
    [p.1, p.2, wordAt s.mem p + zext16 s.y]
  | .jsr _        => []

/-- The cost table of R140: opcode fetch + operand fetch + internal charge + pointer read + data access +
page-cross penalty. -/
def Instr.cost (s : State) (i : Instr) : Nat :=
  match i with
  | .ldaImm _     => 1 + 1
  | .ldaZp _      => 1 + 1 + 1
  | .ldaZpX _     => 1 + 1 + 1 + 1
  | .ldaAbs _     => 1 + 2 + 1
  | .ldaAbsX base => 1 + 2 + 1 + penalty s.params.pageCrossArith base s.x
  | .ldaAbsY base => 1 + 2 + 1 + penalty s.params.pageCrossArith base s.y
  | .ldaIndX _    => 1 + 1 + 1 + 2 + 1
  | .ldaIndY zp   =>
    1 + 1 + 2 + 1 + penalty s.params.pageCrossArith (wordAt s.mem (indyPointerAddrs s zp)) s.y
  | .jsr _        => 1 + 2 + 1 + 2

/-- The state after a load of v by an instruction of `length` bytes that costs `cost` cycles (R88, R106): PC, the
counter, A, Z and N are written, and nothing else. -/
def Machine.State.loaded (s : State) (length cost : Nat) (v : Byte) : State :=
  { s with
    pc := s.pc + BitVec.ofNat 16 length
    control := s.control.charge cost
    a := v
    flags := { s.flags with z := v == 0x00, n := v.getLsbD 7 } }

/-- Outside the corners in which the spec says an addressing parameter matters: zp + X at or past 0xFF for
`INDX_PTR_WRAP` (R96, D6), the pointer address 0xFF for `INDY_PTR_WRAP` (D7), and the index 0xFF with a base above
0xFF00 for `PAGE_CROSS_ARITH` (R89, D8). -/
def Instr.AwayFromCorners (s : State) (i : Instr) : Prop :=
  match i with
  | .ldaImm _     => True
  | .ldaZp _      => True
  | .ldaZpX _     => True
  | .ldaAbs _     => True
  | .ldaAbsX base => s.x = 0xFF → base.toNat ≤ 0xFF00
  | .ldaAbsY base => s.y = 0xFF → base.toNat ≤ 0xFF00
  | .ldaIndX zp   => zp.toNat + s.x.toNat < 0xFF
  | .ldaIndY zp   =>
    zp ≠ 0xFF ∧ (s.y = 0xFF → (wordAt s.mem (indyPointerAddrs s zp)).toNat ≤ 0xFF00)
  | .jsr _        => True

/-- The sum of the costs of the instructions that at most `fuel` passes of the loop run (R139). -/
def costsRun (fuel : Nat) (s : State) : Nat :=
  match fuel with
  | 0 => 0
  | k + 1 =>
    if s.control.positive then
      match instrAt s with
      | none => 0
      | some i =>
        match exec i s with
        | .next t => i.cost s + costsRun k t
        | .fault _ => 0
        | .refused _ => 0
    else 0

end Sys2Proof
end

