-- ==== Sys2Proof/Certificates/Slice0/Obligations.lean ====
section
/-! DEFINITION. The statements for the provers. OBLIGATIONS.json gives each its title, its tier and the rules it
rests on; the docstrings say how the Lean reads them. -/

open Sys2Proof Sys2Proof.Machine

/-! ### Decoding and encoding -/

/-- Under every injective `OPCODE_MAP`, decoding an encoded instruction, whatever bytes follow it, gives the
instruction with every operand and leaves the bytes that follow. -/
def Obligations.DecodeOfEncode : Prop :=
  ∀ (m : OpcodeMap), m.WellFormed → ∀ (i : Instr) (rest : List Byte),
    decode m (encode m i ++ rest) = .ok (i, rest)

/-- Bytes that decode are the encoding of what they decode to: no two byte strings share a meaning. -/
def Obligations.EncodeOfDecode : Prop :=
  ∀ (m : OpcodeMap) (bs : List Byte) (i : Instr) (rest : List Byte),
    decode m bs = .ok (i, rest) → bs = encode m i ++ rest

/-- R65: the map is injective exactly when its nine bytes are distinct, and `Decode` is then its inverse on
those nine values and `none` on every other byte. -/
def Obligations.DecodeInvertsOpcodeMap : Prop :=
  ∀ (m : OpcodeMap),
    (m.WellFormed ↔ ∀ k k' : Opcode, m.byteOf k = m.byteOf k' → k = k') ∧
    (m.WellFormed →
      (∀ k : Opcode, decodeOpcode m (m.byteOf k) = some k) ∧
      (∀ op : Byte, (∀ k : Opcode, m.byteOf k ≠ op) → decodeOpcode m op = none))

/-- Words written out from the encodings of R60 and R68, under the default map. -/
def Obligations.WrittenOutWordsDecode : Prop :=
  decode defaultOpcodeMap [0xA9, 0x84] = .ok (.ldaImm 0x84, []) ∧
  decode defaultOpcodeMap [0xA5, 0x42] = .ok (.ldaZp 0x42, []) ∧
  decode defaultOpcodeMap [0xB5, 0x42] = .ok (.ldaZpX 0x42, []) ∧
  decode defaultOpcodeMap [0xAD, 0x80, 0x44] = .ok (.ldaAbs 0x4480, []) ∧
  decode defaultOpcodeMap [0xBD, 0x80, 0x44] = .ok (.ldaAbsX 0x4480, []) ∧
  decode defaultOpcodeMap [0xB9, 0x80, 0x44] = .ok (.ldaAbsY 0x4480, []) ∧
  decode defaultOpcodeMap [0xA1, 0x02] = .ok (.ldaIndX 0x02, []) ∧
  decode defaultOpcodeMap [0xB1, 0x02] = .ok (.ldaIndY 0x02, []) ∧
  decode defaultOpcodeMap [0x20, 0x42, 0x42] = .ok (.jsr 0x4242, [])

/-- Under the default map exactly 247 byte values are unknown opcodes, 0x00 among them. -/
def Obligations.UnknownOpcodeCount : Prop :=
  ((List.range 256).filter
    fun n => (decodeOpcode defaultOpcodeMap (BitVec.ofNat 8 n)).isNone).length = 247 ∧
  decodeOpcode defaultOpcodeMap 0x00 = none

/-- The length of a decoded instruction comes from its opcode byte alone (R59): 2 for format F2, 3 for F3. -/
def Obligations.LengthFromOpcode : Prop :=
  ∀ (m : OpcodeMap) (op : Byte) (rest tail : List Byte) (i : Instr),
    decode m (op :: rest) = .ok (i, tail) →
      ∃ k : Opcode, decodeOpcode m op = some k ∧ rest.length + 1 = k.length + tail.length ∧
        (k.format = .f2 → k.length = 2) ∧ (k.format = .f3 → k.length = 3)

/-! ### Memory and the charged primitives -/

/-- Canonical memories that read the same everywhere are the same data. -/
def Obligations.MemoryExtensionality : Prop :=
  ∀ (m n : Memory), Memory.wf m → Memory.wf n → (∀ a : Word, m.read a = n.read a) → m = n

/-- R41: what FetchByte returns and changes. That PC +16 1 is 0x0000 after 0xFFFF is the spec's decision D4 (log
entry 8, DESIGN CHOICE). -/
def Obligations.FetchBytePrimitive : Prop :=
  ∀ s : State,
    fetchByte s =
      (s.mem.read s.pc, { s with pc := s.pc + 1, control := s.control.charge 1 }) ∧
    ((0xFFFF : Word) + 1 = 0x0000) ∧
    (∀ req cyc : Int, (Control.executing req cyc).charge 1 = .executing req (cyc - 1))

/-- What FetchWord returns and changes, the high byte from PC +16 1; and that it is two FetchBytes, low byte
first, which R42 marks as its own inference. The wrap of PC is decision D4 (log entry 8, DESIGN CHOICE). -/
def Obligations.FetchWordPrimitive : Prop :=
  ∀ s : State,
    fetchWord s =
      (joinBytes (s.mem.read (s.pc + 1)) (s.mem.read s.pc),
        { s with pc := s.pc + 2, control := s.control.charge 2 }) ∧
    fetchWord s =
      (joinBytes (fetchByte (fetchByte s).2).1 (fetchByte s).1, (fetchByte (fetchByte s).2).2)

/-- R43 and R44: ReadByte and ReadWord change nothing but the counter; the word is little-endian and its
second byte is at addr +16 1. That this is 0x0000 for addr = 0xFFFF is the spec's decision D4 by R48 (log entry 8,
DESIGN CHOICE). -/
def Obligations.ReadPrimitives : Prop :=
  ∀ (s : State) (a : Word),
    readByte a s = (s.mem.read a, { s with control := s.control.charge 1 }) ∧
    readWord a s =
      (joinBytes (s.mem.read (a + 1)) (s.mem.read a), { s with control := s.control.charge 2 })

/-- R45: WriteWord stores the low byte at addr and the high byte at addr +16 1, charges 2, and leaves every
other byte and every other piece of state. The wrap of addr +16 1 is decision D4 (log entry 8, DESIGN CHOICE). -/
def Obligations.WriteWordStoresLittleEndian : Prop :=
  ∀ (s : State) (a v : Word), Memory.wf s.mem →
    ∃ m : Memory,
      writeWord a v s = { s with mem := m, control := s.control.charge 2 } ∧ Memory.wf m ∧
      m.read a = v.extractLsb' 0 8 ∧ m.read (a + 1) = v.extractLsb' 8 8 ∧
      ∀ b : Word, b ≠ a → b ≠ a + 1 → m.read b = s.mem.read b

/-- A word written is the word read back, at every address, 0xFFFF among them (R13, R48; its wrap is decision D4, log
entry 8, DESIGN CHOICE). -/
def Obligations.ReadWordAfterWriteWord : Prop :=
  ∀ (s : State) (a v : Word), Memory.wf s.mem → (readWord a (writeWord a v s)).1 = v

/-- R54: a byte written is seen by the next fetch of its address. -/
def Obligations.FetchSeesWrittenByte : Prop :=
  ∀ (s : State) (a : Word) (v : Byte), Memory.wf s.mem →
    (fetchByte ((s.writeMem a v).setPc a)).1 = v

/-- R89, whose closed forms the spec marks as derived: the coarse test is the exact or the modular difference compared with 255, for every pair of
addresses; for ea = base +16 zext16(idx) it has the two closed forms; and it is not the comparison of high
bytes, in either direction. -/
def Obligations.PageCrossCoarseForms : Prop :=
  (∀ base ea : Word,
    (pageCrossCoarse .signed base ea = true ↔ (ea.toNat : Int) - (base.toNat : Int) ≥ 255) ∧
    (pageCrossCoarse .modular base ea = true ↔ (ea - base).toNat ≥ 255)) ∧
  (∀ (base : Word) (idx : Byte),
    (pageCrossCoarse .signed base (base + zext16 idx) = true ↔
      idx = 0xFF ∧ base.toNat ≤ 0xFF00) ∧
    (pageCrossCoarse .modular base (base + zext16 idx) = true ↔ idx = 0xFF)) ∧
  (∀ arith : PageCrossArith,
    pageCrossCoarse arith 0x44FF 0x4500 = false ∧ pageCrossCoarse arith 0x4400 0x44FF = true)

/-! ### The loop -/

/-- A step inside `Execute` with cyc > 0 runs the instruction decoded at PC, whole, and adds nothing around it:
the fetches of the opcode and the operand, their charges and the advance of PC are in `exec` (log entry 10, DESIGN
CHOICE). -/
def Obligations.StepRunsDecodedInstruction : Prop :=
  ∀ (s : State) (i : Instr), s.status = .ready → s.control.positive = true →
    decodeBytes s.params.opcodeMap (s.mem.read s.pc) (s.mem.read (s.pc + 1))
      (s.mem.read (s.pc + 2)) = some i →
    step s = exec i s

/-- The same for the bytes of an encoded instruction at PC, wrapping past 0xFFFF (R66; decision D4, log entry 8,
DESIGN CHOICE). -/
def Obligations.StepRunsEncodedInstruction : Prop :=
  ∀ (s : State) (i : Instr), s.AboutToRun (encode s.params.opcodeMap i) → step s = exec i s

/-- First clause: between operations the core has no step and keeps its state (R72, R130); that `step` answers the
same state there is the model's choice (log entry 6, DESIGN CHOICE). Second clause: when the counter is spent the call
returns `Ok(req - cyc)` (R76) and changes no register, flag or memory; that the value stays in the field `result` is the
model's choice (log entry 5, DESIGN CHOICE). -/
def Obligations.StepOutsideInstructions : Prop :=
  (∀ s : State, s.status = .ready → s.control = .idle → step s = .next s) ∧
  (∀ (s : State) (req cyc : Int), s.status = .ready → s.control = .executing req cyc → cyc ≤ 0 →
    step s = .next { s with control := .idle, result := some (.ok (req - cyc)) })

/-- R117, R118: at an unknown opcode the fetch lowers cyc by 1, PC is one past the opcode, every other register,
the flags and memory are as before the fetch, and the call ends with the failure and no count. That `step` answers a next state
is log entry 4 (DEDUCED); that the failure stays in the field `result` is log entry 5 (DESIGN CHOICE). -/
def Obligations.UnknownOpcodeFailure : Prop :=
  ∀ (s : State) (req cyc : Int), s.status = .ready → s.control = .executing req cyc → 0 < cyc →
    decodeOpcode s.params.opcodeMap (s.mem.read s.pc) = none →
    (fetchByte s).2.control = .executing req (cyc - 1) ∧
    step s = .next { s with
      pc := s.pc + 1
      control := .idle
      result := some (.fail (.unknownOpcode (s.mem.read s.pc))) }

/-- After a failure the core is Ready and idle, every host operation is carried out, and a new `Execute` begins
at the byte after the unknown opcode (R85, R122; decision D12, log entry 4, DEDUCED). -/
def Obligations.CoreGoesOnAfterFailure : Prop :=
  ∀ (s t : State), s.status = .ready → s.control.positive = true → instrAt s = none →
    step s = .next t →
    t.status = .ready ∧ t.control = .idle ∧ t.pc = s.pc + 1 ∧
    ∀ op : HostOp, ∃ (r : HostReply) (u : State), host op t = .reply r u

/-! ### The instructions -/

/-- `LDA #imm8`: the operand is the value (R90) that LoadA writes (R88); length 2, cost 2. -/
def Obligations.LdaImmediateResult : Prop :=
  ∀ (s : State) (imm8 : Byte),
    exec (.ldaImm imm8) s = .next (s.loaded 2 2 imm8) ∧
    (s.AboutToRun [s.params.opcodeMap.ldaImm, imm8] → step s = .next (s.loaded 2 2 imm8))

/-- `LDA zp8` (R91, R99): the byte at zext16(zp8); length 2; the total cost 3 is one R140 marks as derived. -/
def Obligations.LdaZeroPageResult : Prop :=
  ∀ (s : State) (zp8 : Byte),
    let t := s.loaded 2 3 (s.mem.read (zext16 zp8))
    exec (.ldaZp zp8) s = .next t ∧
    (s.AboutToRun [s.params.opcodeMap.ldaZp, zp8] → step s = .next t)

/-- `LDA zp8,X` (R92): the sum wraps within a byte; length 2, cost 4 whether it wraps or not. -/
def Obligations.LdaZeroPageXResult : Prop :=
  ∀ (s : State) (zp8 : Byte),
    let t := s.loaded 2 4 (s.mem.read (zext16 (zp8 + s.x)))
    exec (.ldaZpX zp8) s = .next t ∧
    (s.AboutToRun [s.params.opcodeMap.ldaZpX, zp8] → step s = .next t)

/-- `LDA abs16` (R93, R101): the operand is fetched low byte first; length 3; the total cost 4 is one R140 marks as
derived. -/
def Obligations.LdaAbsoluteResult : Prop :=
  ∀ (s : State) (abs16 : Word),
    let t := s.loaded 3 4 (s.mem.read abs16)
    exec (.ldaAbs abs16) s = .next t ∧
    (s.AboutToRun [s.params.opcodeMap.ldaAbs, abs16.extractLsb' 0 8, abs16.extractLsb' 8 8] →
      step s = .next t)

/-- `LDA abs16,X` (R94, R102): length 3, cost 4, or 5 where the coarse test of R89 holds. That the 16-bit sum wraps is
the spec's decision D4 (log entry 8, DESIGN CHOICE). -/
def Obligations.LdaAbsoluteXResult : Prop :=
  ∀ (s : State) (abs16 : Word),
    let t := s.loaded 3 (4 + penalty s.params.pageCrossArith abs16 s.x)
      (s.mem.read (abs16 + zext16 s.x))
    exec (.ldaAbsX abs16) s = .next t ∧
    (s.AboutToRun [s.params.opcodeMap.ldaAbsX, abs16.extractLsb' 0 8, abs16.extractLsb' 8 8] →
      step s = .next t)

/-- `LDA abs16,Y` (R95, R103): Y in the place of X. The totals 4 and 5 are among those R140 marks as derived, and the
wrap of the sum is decision D4 (log entry 8, DESIGN CHOICE). -/
def Obligations.LdaAbsoluteYResult : Prop :=
  ∀ (s : State) (abs16 : Word),
    let t := s.loaded 3 (4 + penalty s.params.pageCrossArith abs16 s.y)
      (s.mem.read (abs16 + zext16 s.y))
    exec (.ldaAbsY abs16) s = .next t ∧
    (s.AboutToRun [s.params.opcodeMap.ldaAbsY, abs16.extractLsb' 0 8, abs16.extractLsb' 8 8] →
      step s = .next t)

/-- `LDA (zp8,X)` (R96), both settings of `INDX_PTR_WRAP` written out; length 2, cost 6 under either. The setting
`none` is ReadWord of the unwrapped sum, and the settings differ only where zp8 + X is 0xFF or more. -/
def Obligations.LdaIndirectXResult : Prop :=
  ∀ (s : State) (zp8 : Byte),
    let wrapped :=
      joinBytes (s.mem.read (zext16 (zp8 + s.x + 1))) (s.mem.read (zext16 (zp8 + s.x)))
    let unwrapped :=
      joinBytes (s.mem.read (zext16 zp8 + zext16 s.x + 1)) (s.mem.read (zext16 zp8 + zext16 s.x))
    let ea := match s.params.indxPtrWrap with
      | .zeroPage => wrapped
      | .none => unwrapped
    let t := s.loaded 2 6 (s.mem.read ea)
    exec (.ldaIndX zp8) s = .next t ∧
    (s.AboutToRun [s.params.opcodeMap.ldaIndX, zp8] → step s = .next t) ∧
    unwrapped = (readWord (zext16 zp8 + zext16 s.x) s).1 ∧
    (zp8.toNat + s.x.toNat < 0xFF → wrapped = unwrapped)

/-- `LDA (zp8),Y` (R97, R105), both settings of `INDY_PTR_WRAP` written out; length 2, cost 5, or 6 where the coarse
test holds. The total 5 is one R140 marks as derived, and the wrap of the add is decision D4 (log entry 8, DESIGN
CHOICE). -/
def Obligations.LdaIndirectYResult : Prop :=
  ∀ (s : State) (zp8 : Byte),
    let ptr := match s.params.indyPtrWrap with
      | .none => joinBytes (s.mem.read (zext16 zp8 + 1)) (s.mem.read (zext16 zp8))
      | .zeroPage => joinBytes (s.mem.read (zext16 (zp8 + 1))) (s.mem.read (zext16 zp8))
    let t := s.loaded 2 (5 + penalty s.params.pageCrossArith ptr s.y)
      (s.mem.read (ptr + zext16 s.y))
    exec (.ldaIndY zp8) s = .next t ∧
    (s.AboutToRun [s.params.opcodeMap.ldaIndY, zp8] → step s = .next t)

/-- `JSR abs16` (R107): length 3, cost 6; SP is lowered by 2, its wrap modulo 256 being decision D5 (log entry 8, DESIGN
CHOICE). That the word written is the address of the
opcode plus 2 is what R108 infers from R107. -/
def Obligations.JsrResult : Prop :=
  ∀ (s : State) (abs16 : Word),
    let ret : Word := s.pc + 2
    let t : State := { s with
      pc := abs16
      sp := s.sp - 2
      mem := (s.mem.write (zext16 s.sp) (ret.extractLsb' 0 8)).write (zext16 s.sp + 1)
        (ret.extractLsb' 8 8)
      control := s.control.charge 6 }
    exec (.jsr abs16) s = .next t ∧
    (s.AboutToRun [s.params.opcodeMap.jsr, abs16.extractLsb' 0 8, abs16.extractLsb' 8 8] →
      step s = .next t)

/-- R109: the bytes JSR stores to are the two from zext16(SP) on, low byte first, from 0x0000 to 0x0100 and never on
another page; every other byte of memory reads as before. That the word is the opcode's address plus 2 is R108's
inference from R107; that the new SP is 2 lower modulo 256 is R107 and R110 (decision D5, log entry 8, DESIGN
CHOICE). -/
def Obligations.JsrMemoryFrame : Prop :=
  ∀ (s : State) (abs16 : Word), Memory.wf s.mem →
    ∃ t : State, exec (.jsr abs16) s = .next t ∧ Memory.wf t.mem ∧
      t.mem.read (zext16 s.sp) = (s.pc + 2).extractLsb' 0 8 ∧
      t.mem.read (zext16 s.sp + 1) = (s.pc + 2).extractLsb' 8 8 ∧
      (∀ b : Word, b ≠ zext16 s.sp → b ≠ zext16 s.sp + 1 → t.mem.read b = s.mem.read b) ∧
      (zext16 s.sp).toNat = s.sp.toNat ∧ (zext16 s.sp + 1).toNat = s.sp.toNat + 1 ∧
      s.sp.toNat + 1 ≤ 0x0100 ∧ t.sp = s.sp - 2

/-- Inferred by R110 from R107: from SP = 0xFF the byte pairs that 128 successive JSRs store to are disjoint, and SP is then 0xFF
again, so the 129th stores to the pair of the first. The state after one JSR is `jumpSubroutine w (fetchedF3 u)`,
whatever the targets are. The wrap of SP is decision D5 (log entry 8, DESIGN CHOICE). -/
def Obligations.JsrStackPairsDisjoint : Prop :=
  ∀ (s : State) (targets : Nat → Word), s.sp = 0xFF →
    let after : Nat → State := fun k =>
      Nat.rec s (fun j u => jumpSubroutine (targets j) (fetchedF3 u)) k
    (∀ k, exec (.jsr (targets k)) (after k) = .next (after (k + 1))) ∧
    (∀ j k, j < k → k < 128 → ∀ d e : Word, d ≤ 1 → e ≤ 1 →
      zext16 (after j).sp + d ≠ zext16 (after k).sp + e) ∧
    (after 128).sp = 0xFF

/-- R23: for every instruction and all flags f it starts from, C, I, D, B and V stay, Z and N are written by a load
alone, as its A says, JSR writes no flag, and what else happens does not depend on f. -/
def Obligations.FlagRule : Prop :=
  ∀ (s : State) (i : Instr),
    ∃ t : State, exec i s = .next t ∧
      ∀ f : Flags, exec i { s with flags := f } =
        .next { t with flags :=
          if i.opcode = .jsr then f else { f with z := t.a == 0x00, n := t.a.getLsbD 7 } }

/-- What R106 infers: a load completes, writes no memory, X, Y, SP, C, I, D, B or V, advances PC by its length, and its
outcome is the same whatever A, Z and N were. -/
def Obligations.LoadFrame : Prop :=
  ∀ (s : State) (i : Instr), i.opcode ≠ .jsr →
    ∃ t : State, exec i s = .next t ∧
      t.mem = s.mem ∧ (∀ b : Word, t.mem.read b = s.mem.read b) ∧
      t.x = s.x ∧ t.y = s.y ∧ t.sp = s.sp ∧
      t.flags.c = s.flags.c ∧ t.flags.i = s.flags.i ∧ t.flags.d = s.flags.d ∧
      t.flags.b = s.flags.b ∧ t.flags.v = s.flags.v ∧
      t.status = s.status ∧ t.result = s.result ∧ t.params = s.params ∧
      t.pc = s.pc + BitVec.ofNat 16 i.opcode.length ∧
      t.flags.z = (t.a == 0x00) ∧ t.flags.n = t.a.getLsbD 7 ∧
      ∀ (a : Byte) (z n : Bool),
        exec i { s with a := a, flags := { s.flags with z := z, n := n } } = .next t

/-- A load reads only the addresses its mode names: memories that agree on them give the same outcome, the
memory itself apart. -/
def Obligations.LoadReadsOnlyItsAddresses : Prop :=
  ∀ (s : State) (i : Instr) (m : Memory), i.opcode ≠ .jsr →
    (∀ b ∈ i.dataAddrs s, m.read b = s.mem.read b) →
    ∃ t : State, exec i s = .next t ∧ exec i { s with mem := m } = .next { t with mem := m }

/-- Outside the corners of R89, R96, D6, D7 and D8 (`Instr.AwayFromCorners`), every setting of the three addressing
parameters gives the same outcome: zp8 + X below 0xFF for (Indirect,X); zp8 not 0xFF for (Indirect),Y; and for the
page-cross penalty, an index other than 0xFF whatever the base, or a base (a pointer) of at most 0xFF00. -/
def Obligations.ParametersAgreeAwayFromCorners : Prop :=
  ∀ (s : State) (i : Instr) (ix iy : PtrWrap) (arith : PageCrossArith), i.AwayFromCorners s →
    let p : Params := ⟨s.params.opcodeMap, ix, iy, arith⟩
    ∃ t : State, exec i s = .next t ∧ exec i { s with params := p } = .next { t with params := p }

/-- What R120 infers: no admitted instruction raises anything: each completes from every state, and touches neither the status
nor the result nor the parameters. -/
def Obligations.EveryInstructionCompletes : Prop :=
  ∀ (s : State) (i : Instr),
    ∃ t : State, exec i s = .next t ∧ t.status = s.status ∧ t.result = s.result ∧
      t.params = s.params ∧ (t.control = .idle ↔ s.control = .idle)

/-- R140, most of whose totals the spec marks as derived: the cost of every instruction is the sum of its row, never below 2 or above 6, and the budget stays. -/
def Obligations.CostTable : Prop :=
  ∀ (s : State) (i : Instr),
    2 ≤ i.cost s ∧ i.cost s ≤ 6 ∧
    ∃ t : State, exec i s = .next t ∧ t.control = s.control.charge (i.cost s)

/-! ### Promises about every step -/

/-- No step writes X, Y, C, I, D, B or V, the lifecycle status or the parameters (R17, R18, R24, R28). -/
def Obligations.StepKeepsInertState : Prop :=
  ∀ s t : State, step s = .next t →
    t.x = s.x ∧ t.y = s.y ∧ t.flags.c = s.flags.c ∧ t.flags.i = s.flags.i ∧
    t.flags.d = s.flags.d ∧ t.flags.b = s.flags.b ∧ t.flags.v = s.flags.v ∧
    t.status = s.status ∧ t.params = s.params

/-- Only JSR changes SP or memory, only a load changes A, Z or N, and PC moves only by the fetches or to a
JSR's target. -/
def Obligations.StepChangesByKind : Prop :=
  ∀ s t : State, step s = .next t →
    ((t.sp ≠ s.sp ∨ t.mem ≠ s.mem) → ∃ w : Word, instrAt s = some (.jsr w)) ∧
    ((t.a ≠ s.a ∨ t.flags ≠ s.flags) → ∃ i : Instr, instrAt s = some i ∧ i.opcode ≠ .jsr) ∧
    (t.pc = s.pc ∨ t.pc = s.pc + 1 ∨ t.pc = s.pc + 2 ∨ t.pc = s.pc + 3 ∨
      instrAt s = some (.jsr t.pc))

/-- No step reads a flag or A: with other values there the same step happens, C, I, D, B and V stay as they
are given, and A, Z and N are as they would be or as they are given. -/
def Obligations.StepReadsNoFlagAndNoAccumulator : Prop :=
  ∀ (s t : State) (f : Flags) (a : Byte), step s = .next t →
    (step { s with flags := f, a := a } = .next { t with flags := f, a := a } ∧
      t.flags = s.flags ∧ t.a = s.a) ∨
    step { s with flags := f, a := a } =
      .next { t with flags := { f with z := t.flags.z, n := t.flags.n } }

/-- Inside a call the budget stays and the counter falls by at least 2 and at most 6 at each step that does
not end the call. -/
def Obligations.CounterFallsEachStep : Prop :=
  ∀ (s t : State) (req cyc req' cyc' : Int), step s = .next t →
    s.control = .executing req cyc → t.control = .executing req' cyc' →
    0 < cyc ∧ req' = req ∧ cyc' + 2 ≤ cyc ∧ cyc ≤ cyc' + 6

/-- From every state that meets the invariant a step gives one that does. -/
def Obligations.StepKeepsInvariant : Prop :=
  ∀ s t : State, s.Inv → step s = .next t → t.Inv

/-- The state after reset meets the invariant. -/
def Obligations.ResetMeetsInvariant : Prop := State.reset.Inv

/-- One step is one whole pass of the state machine of R80, whose handlers fetch their own operands: four
transitions from CHECK lead back to CHECK, or to IDLE where the call ends, with the step's state. That `step` is a
whole pass is log entry 9 (DEDUCED). -/
def Obligations.StepIsOneLoopPass : Prop :=
  ∀ (s : State) (req cyc : Int), s.status = .ready → s.control = .executing req cyc →
    ∃ t : State, step s = .next t ∧
      LoopState.advance^[4] (.check, s) = (if t.control = .idle then .idle else .check, t)

/-! ### Reset and the host's operations -/

/-- R33, R131: the value of every piece of state after reset. -/
def Obligations.ResetValues : Prop :=
  State.reset.pc = 0xFFFC ∧ State.reset.sp = 0xFF ∧ State.reset.a = 0x00 ∧ State.reset.x = 0x00 ∧
  State.reset.y = 0x00 ∧ State.reset.flags = ⟨false, false, false, false, false, false, false⟩ ∧
  (∀ a : Word, State.reset.mem.read a = 0x00) ∧ State.reset.status = .ready ∧
  State.reset.control = .idle

/-- R131, R132: from any state between operations, reset or never reset, Reset gives the reset state of the
machine's parameters, and a second Reset changes nothing. The fields `params`, kept, and `result`, cleared, are log
entries 1 and 5 (DESIGN CHOICE). -/
def Obligations.ResetFromAnyState : Prop :=
  ∀ s : State, s.control = .idle →
    host .reset s = .reply .done (State.resetWith s.params) ∧
    host .reset (State.resetWith s.params) = .reply .done (State.resetWith s.params) ∧
    State.resetWith defaultParams = State.reset

/-- R84 (decision D11; log entry 7, DESIGN CHOICE): before the first reset `Execute` and every read and write are
refused, and no step happens. -/
def Obligations.UnresetIsRefused : Prop :=
  ∀ s : State, s.status = .unreset →
    step s = .refused .unreset ∧
    (s.control = .idle → ∀ op : HostOp, op ≠ .reset → host op s = .refused .unreset)

/-- R72 says the host cannot act inside an `Execute`. That the model refuses every host operation there, under the
name busy, is the model's own reading of that (log entry 12, DEDUCED). -/
def Obligations.HostCannotActInsideExecute : Prop :=
  ∀ (s : State) (req cyc : Int) (op : HostOp), s.control = .executing req cyc →
    host op s = .refused .busy

/-- R82: a register or flag written reads back, every other register, flag and piece of state keeps its value,
a read changes nothing, and nothing is charged. -/
def Obligations.HostRegisterAccess : Prop :=
  ∀ s : State, s.status = .ready → s.control = .idle →
    (∀ r : ByteReg, host (.readByteReg r) s = .reply (.byte (s.byteReg r)) s) ∧
    host .readPc s = .reply (.word s.pc) s ∧
    (∀ f : FlagReg, host (.readFlag f) s = .reply (.bit (s.flags.get f)) s) ∧
    (∀ (r : ByteReg) (v : Byte), ∃ t : State, host (.writeByteReg r v) s = .reply .done t ∧
      host (.readByteReg r) t = .reply (.byte v) t ∧
      (∀ r', r' ≠ r → t.byteReg r' = s.byteReg r') ∧
      t = { s with a := t.a, x := t.x, y := t.y, sp := t.sp }) ∧
    (∀ v : Word, ∃ t : State, host (.writePc v) s = .reply .done t ∧
      host .readPc t = .reply (.word v) t ∧ t = { s with pc := v }) ∧
    (∀ (f : FlagReg) (b : Bool), ∃ t : State, host (.writeFlag f b) s = .reply .done t ∧
      host (.readFlag f) t = .reply (.bit b) t ∧
      (∀ f', f' ≠ f → t.flags.get f' = s.flags.get f') ∧ t = { s with flags := t.flags })

/-- R83: HostReadMem returns the byte and changes nothing; HostWriteMem sets that byte, and every other byte and
every other piece of state, PC among them, keeps its value. -/
def Obligations.HostMemoryAccess : Prop :=
  ∀ (s : State) (a : Word) (v : Byte), s.status = .ready → s.control = .idle → Memory.wf s.mem →
    host (.readMem a) s = .reply (.byte (s.mem.read a)) s ∧
    ∃ t : State, host (.writeMem a v) s = .reply .done t ∧ t = { s with mem := t.mem } ∧
      Memory.wf t.mem ∧ ∀ b : Word, t.mem.read b = if b = a then v else s.mem.read b

/-! ### Execute -/

/-- R75, whose negative budgets the spec marks as derived: a budget of 0 or less runs nothing and returns Ok(0).
The field `result` is log entry 5 (DESIGN CHOICE). -/
def Obligations.NoBudgetRunsNothing : Prop :=
  ∀ (s : State) (n : Int), s.status = .ready → s.control = .idle → n ≤ 0 →
    host (.execute n) s =
      .reply (.result (some (.ok 0))) { s with result := some (.ok 0) }

/-- Inferred by R78 and R86: `Execute(n)` always returns, with a result, for every budget. -/
def Obligations.ExecuteTerminates : Prop :=
  ∀ (s : State) (n : Int), s.status = .ready → s.control = .idle →
    ∃ (r : ExecResult) (t : State), host (.execute n) s = .reply (.result (some r)) t ∧
      t.control = .idle ∧ t.status = .ready ∧ t.result = some r

/-- Inferred by R77: a call that returns normally has used at least its budget and at most 5 cycles more. -/
def Obligations.BudgetOverrunBound : Prop :=
  ∀ (s t : State) (n used : Int), s.status = .ready → s.control = .idle → 1 ≤ n →
    host (.execute n) s = .reply (.result (some (.ok used))) t → n ≤ used ∧ used ≤ n + 5

/-- R139: the count returned is the sum of the costs, by the table of R140, of the instructions the call
ran. -/
def Obligations.UsedIsSumOfCosts : Prop :=
  ∀ (s t : State) (n used : Int), s.status = .ready → s.control = .idle →
    host (.execute n) s = .reply (.result (some (.ok used))) t →
    used = costsRun (n.toNat + 1) (beginExecute n s)

/-- Inferred by R129: `Execute(1)` and `Execute(2)` each run exactly one instruction, or fail on its opcode.
The field `result` is log entry 5 (DESIGN CHOICE). -/
def Obligations.SingleStepping : Prop :=
  ∀ (s : State) (n : Int), s.status = .ready → s.control = .idle → n = 1 ∨ n = 2 →
    (∀ i : Instr, instrAt s = some i →
      ∃ t : State, exec i (beginExecute n s) = .next t ∧
        host (.execute n) s =
          .reply (.result (some (.ok (i.cost s))))
            { t with control := .idle, result := some (.ok (i.cost s)) }) ∧
    (instrAt s = none →
      host (.execute n) s =
        .reply (.result (some (.fail (.unknownOpcode (s.mem.read s.pc)))))
          { s with
            pc := s.pc + 1
            result := some (.fail (.unknownOpcode (s.mem.read s.pc))) })

/-- The invariant as a step lemma of the host's interface: from every state with it between operations, whatever
operation the host issues, an `Execute` of any program among them, and whether it is carried out or refused, the state
after it has the invariant and is between operations again. -/
def Obligations.HostOperationKeepsInvariant : Prop :=
  ∀ (s : State) (op : HostOp), s.Inv → s.control = .idle →
    ((host op s).after s).Inv ∧ ((host op s).after s).control = .idle

/-- Every state that a session reaches, whatever the host does from before the first reset on, meets the
invariant and is between operations. -/
def Obligations.SessionKeepsInvariant : Prop :=
  ∀ (p : Params) (ops : List HostOp), p.WellFormed →
    (session ops (State.neverReset p)).Inv ∧ (session ops (State.neverReset p)).control = .idle
end

