-- ==== Sys2Proof/Laws/Memory.lean ====
section
/-! SUPPORT. The laws of the memory list: every operation keeps the canonical form, and a read after a write. -/

namespace Sys2Proof.Machine

/-- Every listed address is above `k`. -/
def Memory.Above (k : Nat) (m : Memory) : Prop := ∀ c ∈ m, k < c.1

theorem Memory.above_nil (k : Nat) : Memory.Above k [] := by simp [Memory.Above]

theorem Memory.wf_cons {k : Nat} {v : Byte} {rest : Memory} :
    Memory.wf ((k, v) :: rest) ↔
      Memory.Above k rest ∧ k < 65536 ∧ v ≠ Memory.blank ∧ Memory.wf rest := by
  simp only [Memory.wf, decide_eq_true_eq, List.pairwise_cons, List.forall_mem_cons]
  tauto

theorem Memory.get_of_above {k : Nat} {m : Memory} (h : Memory.Above k m) :
    Memory.get m k = Memory.blank := by
  induction m with
  | nil => rfl
  | cons c rest ih =>
    have hc : k < c.1 := h c (by simp)
    have hr : Memory.Above k rest := fun d hd => h d (by simp [hd])
    simp [Memory.get, Nat.ne_of_lt hc, ih hr]

theorem Memory.get_consCell (k : Nat) (v : Byte) {rest : Memory} (h : Memory.Above k rest) (j : Nat) :
    Memory.get (Memory.cons k v rest) j = if j = k then v else Memory.get rest j := by
  unfold Memory.cons
  by_cases hv : v = Memory.blank <;> by_cases hj : j = k <;>
    simp [hv, hj, Memory.get, Memory.get_of_above h]

theorem Memory.cons_wf {k : Nat} {v : Byte} {rest : Memory} (hk : k < 65536)
    (h : Memory.Above k rest) (hr : Memory.wf rest) : Memory.wf (Memory.cons k v rest) := by
  unfold Memory.cons
  split
  · exact hr
  · exact Memory.wf_cons.2 ⟨h, hk, ‹_›, hr⟩

theorem Memory.cons_above {j k : Nat} {v : Byte} {rest : Memory} (hj : j < k)
    (h : Memory.Above j rest) : Memory.Above j (Memory.cons k v rest) := by
  unfold Memory.cons
  split
  · exact h
  · exact fun c hc => by
      rcases List.mem_cons.1 hc with rfl | hc
      · exact hj
      · exact h c hc

theorem Memory.set_above {j k : Nat} {v : Byte} {m : Memory} (hj : j < k)
    (h : Memory.Above j m) : Memory.Above j (Memory.set m k v) := by
  induction m with
  | nil => exact Memory.cons_above hj (Memory.above_nil j)
  | cons c rest ih =>
    obtain ⟨k', v'⟩ := c
    have hr : Memory.Above j rest := fun d hd => h d (by simp [hd])
    have hc : j < k' := h (k', v') (by simp)
    unfold Memory.set
    split
    · exact Memory.cons_above hj h
    split
    · exact Memory.cons_above hj hr
    · exact fun d hd => by
        rcases List.mem_cons.1 hd with rfl | hd
        · exact hc
        · exact ih hr d hd

/-- A write keeps the canonical form. -/
theorem Memory.set_wf {k : Nat} {v : Byte} {m : Memory} (hk : k < 65536) (h : Memory.wf m) :
    Memory.wf (Memory.set m k v) := by
  induction m with
  | nil => exact Memory.cons_wf hk (Memory.above_nil k) h
  | cons c rest ih =>
    obtain ⟨k', v'⟩ := c
    obtain ⟨ha, hk', hv', hr⟩ := Memory.wf_cons.1 h
    unfold Memory.set
    split
    · exact Memory.cons_wf hk (fun d hd => by
        rcases List.mem_cons.1 hd with rfl | hd
        · assumption
        · exact Nat.lt_trans ‹_› (ha d hd)) h
    split
    · exact Memory.cons_wf hk (fun d hd => by have := ha d hd; omega) hr
    · exact Memory.wf_cons.2 ⟨Memory.set_above (by omega) ha, hk', hv', ih hr⟩

/-- What a write leaves to be read: the byte written at its key, the old byte everywhere else. -/
theorem Memory.get_set {k : Nat} {v : Byte} {m : Memory} (h : Memory.wf m) (j : Nat) :
    Memory.get (Memory.set m k v) j = if j = k then v else Memory.get m j := by
  induction m with
  | nil => exact Memory.get_consCell k v (Memory.above_nil k) j
  | cons c rest ih =>
    obtain ⟨k', v'⟩ := c
    obtain ⟨ha, -, -, hr⟩ := Memory.wf_cons.1 h
    unfold Memory.set
    split
    · exact Memory.get_consCell k v (fun d hd => by
        rcases List.mem_cons.1 hd with rfl | hd
        · assumption
        · exact Nat.lt_trans ‹_› (ha d hd)) j
    split
    · rw [Memory.get_consCell k v (fun d hd => by have := ha d hd; omega) j]
      by_cases hj : j = k
      · simp [hj]
      · have : j ≠ k' := by omega
        simp [hj, Memory.get, this]
    · by_cases hj : j = k'
      · have : j ≠ k := by omega
        simp [Memory.get, hj]; omega
      · simp [Memory.get, hj, ih hr]

/-- `MemWrite` keeps the canonical form. -/
theorem Memory.write_wf {m : Memory} (h : Memory.wf m) (a : Word) (v : Byte) :
    Memory.wf (m.write a v) :=
  Memory.set_wf a.isLt h

/-- `MemRead` after `MemWrite` (20_memory.md R38, R39). -/
theorem Memory.read_write {m : Memory} (h : Memory.wf m) (a b : Word) (v : Byte) :
    (m.write a v).read b = if b = a then v else m.read b := by
  simp [Memory.read, Memory.write, Memory.get_set h, BitVec.toNat_inj]

/-- `MemInit` gives the canonical form. -/
theorem Memory.init_wf : Memory.wf Memory.init := by decide

/-- `MemInit` sets every cell to 0x00 (R40). -/
theorem Memory.read_init (a : Word) : Memory.init.read a = 0x00 := rfl

end Sys2Proof.Machine
end

