-- ==== Sys2Proof/Laws/State.lean ====
section
/-! SUPPORT. One lemma per field per update, true by rfl, so that no proof unfolds a record update. -/

namespace Sys2Proof.Machine

variable (s : State)

@[simp] theorem State.charge_status (n : Nat) : (s.charge n).status = s.status := rfl
@[simp] theorem State.charge_pc (n : Nat) : (s.charge n).pc = s.pc := rfl
@[simp] theorem State.charge_sp (n : Nat) : (s.charge n).sp = s.sp := rfl
@[simp] theorem State.charge_a (n : Nat) : (s.charge n).a = s.a := rfl
@[simp] theorem State.charge_x (n : Nat) : (s.charge n).x = s.x := rfl
@[simp] theorem State.charge_y (n : Nat) : (s.charge n).y = s.y := rfl
@[simp] theorem State.charge_flags (n : Nat) : (s.charge n).flags = s.flags := rfl
@[simp] theorem State.charge_mem (n : Nat) : (s.charge n).mem = s.mem := rfl
@[simp] theorem State.charge_control (n : Nat) : (s.charge n).control = s.control.charge n := rfl
@[simp] theorem State.charge_result (n : Nat) : (s.charge n).result = s.result := rfl
@[simp] theorem State.charge_params (n : Nat) : (s.charge n).params = s.params := rfl

@[simp] theorem State.advance_status (n : Nat) : (s.advance n).status = s.status := rfl
@[simp] theorem State.advance_pc (n : Nat) : (s.advance n).pc = s.pc + BitVec.ofNat 16 n := rfl
@[simp] theorem State.advance_sp (n : Nat) : (s.advance n).sp = s.sp := rfl
@[simp] theorem State.advance_a (n : Nat) : (s.advance n).a = s.a := rfl
@[simp] theorem State.advance_x (n : Nat) : (s.advance n).x = s.x := rfl
@[simp] theorem State.advance_y (n : Nat) : (s.advance n).y = s.y := rfl
@[simp] theorem State.advance_flags (n : Nat) : (s.advance n).flags = s.flags := rfl
@[simp] theorem State.advance_mem (n : Nat) : (s.advance n).mem = s.mem := rfl
@[simp] theorem State.advance_control (n : Nat) : (s.advance n).control = s.control := rfl
@[simp] theorem State.advance_result (n : Nat) : (s.advance n).result = s.result := rfl
@[simp] theorem State.advance_params (n : Nat) : (s.advance n).params = s.params := rfl

@[simp] theorem State.setPc_status (v : Word) : (s.setPc v).status = s.status := rfl
@[simp] theorem State.setPc_pc (v : Word) : (s.setPc v).pc = v := rfl
@[simp] theorem State.setPc_sp (v : Word) : (s.setPc v).sp = s.sp := rfl
@[simp] theorem State.setPc_a (v : Word) : (s.setPc v).a = s.a := rfl
@[simp] theorem State.setPc_x (v : Word) : (s.setPc v).x = s.x := rfl
@[simp] theorem State.setPc_y (v : Word) : (s.setPc v).y = s.y := rfl
@[simp] theorem State.setPc_flags (v : Word) : (s.setPc v).flags = s.flags := rfl
@[simp] theorem State.setPc_mem (v : Word) : (s.setPc v).mem = s.mem := rfl
@[simp] theorem State.setPc_control (v : Word) : (s.setPc v).control = s.control := rfl
@[simp] theorem State.setPc_result (v : Word) : (s.setPc v).result = s.result := rfl
@[simp] theorem State.setPc_params (v : Word) : (s.setPc v).params = s.params := rfl

@[simp] theorem State.setSp_status (v : Byte) : (s.setSp v).status = s.status := rfl
@[simp] theorem State.setSp_pc (v : Byte) : (s.setSp v).pc = s.pc := rfl
@[simp] theorem State.setSp_sp (v : Byte) : (s.setSp v).sp = v := rfl
@[simp] theorem State.setSp_a (v : Byte) : (s.setSp v).a = s.a := rfl
@[simp] theorem State.setSp_x (v : Byte) : (s.setSp v).x = s.x := rfl
@[simp] theorem State.setSp_y (v : Byte) : (s.setSp v).y = s.y := rfl
@[simp] theorem State.setSp_flags (v : Byte) : (s.setSp v).flags = s.flags := rfl
@[simp] theorem State.setSp_mem (v : Byte) : (s.setSp v).mem = s.mem := rfl
@[simp] theorem State.setSp_control (v : Byte) : (s.setSp v).control = s.control := rfl
@[simp] theorem State.setSp_result (v : Byte) : (s.setSp v).result = s.result := rfl
@[simp] theorem State.setSp_params (v : Byte) : (s.setSp v).params = s.params := rfl

@[simp] theorem State.writeMem_status (b : Word) (v : Byte) : (s.writeMem b v).status = s.status := rfl
@[simp] theorem State.writeMem_pc (b : Word) (v : Byte) : (s.writeMem b v).pc = s.pc := rfl
@[simp] theorem State.writeMem_sp (b : Word) (v : Byte) : (s.writeMem b v).sp = s.sp := rfl
@[simp] theorem State.writeMem_a (b : Word) (v : Byte) : (s.writeMem b v).a = s.a := rfl
@[simp] theorem State.writeMem_x (b : Word) (v : Byte) : (s.writeMem b v).x = s.x := rfl
@[simp] theorem State.writeMem_y (b : Word) (v : Byte) : (s.writeMem b v).y = s.y := rfl
@[simp] theorem State.writeMem_flags (b : Word) (v : Byte) : (s.writeMem b v).flags = s.flags := rfl
@[simp] theorem State.writeMem_mem (b : Word) (v : Byte) : (s.writeMem b v).mem = s.mem.write b v := rfl
@[simp] theorem State.writeMem_control (b : Word) (v : Byte) : (s.writeMem b v).control = s.control := rfl
@[simp] theorem State.writeMem_result (b : Word) (v : Byte) : (s.writeMem b v).result = s.result := rfl
@[simp] theorem State.writeMem_params (b : Word) (v : Byte) : (s.writeMem b v).params = s.params := rfl

@[simp] theorem loadA_status (v : Byte) : (loadA v s).status = s.status := rfl
@[simp] theorem loadA_pc (v : Byte) : (loadA v s).pc = s.pc := rfl
@[simp] theorem loadA_sp (v : Byte) : (loadA v s).sp = s.sp := rfl
@[simp] theorem loadA_a (v : Byte) : (loadA v s).a = v := rfl
@[simp] theorem loadA_x (v : Byte) : (loadA v s).x = s.x := rfl
@[simp] theorem loadA_y (v : Byte) : (loadA v s).y = s.y := rfl
@[simp] theorem loadA_flags (v : Byte) : (loadA v s).flags = loadFlags v s.flags := rfl
@[simp] theorem loadA_mem (v : Byte) : (loadA v s).mem = s.mem := rfl
@[simp] theorem loadA_control (v : Byte) : (loadA v s).control = s.control := rfl
@[simp] theorem loadA_result (v : Byte) : (loadA v s).result = s.result := rfl
@[simp] theorem loadA_params (v : Byte) : (loadA v s).params = s.params := rfl

@[simp] theorem beginExecute_status (n : Int) : (beginExecute n s).status = s.status := rfl
@[simp] theorem beginExecute_pc (n : Int) : (beginExecute n s).pc = s.pc := rfl
@[simp] theorem beginExecute_sp (n : Int) : (beginExecute n s).sp = s.sp := rfl
@[simp] theorem beginExecute_a (n : Int) : (beginExecute n s).a = s.a := rfl
@[simp] theorem beginExecute_x (n : Int) : (beginExecute n s).x = s.x := rfl
@[simp] theorem beginExecute_y (n : Int) : (beginExecute n s).y = s.y := rfl
@[simp] theorem beginExecute_flags (n : Int) : (beginExecute n s).flags = s.flags := rfl
@[simp] theorem beginExecute_mem (n : Int) : (beginExecute n s).mem = s.mem := rfl
@[simp] theorem beginExecute_control (n : Int) : (beginExecute n s).control = .executing n n := rfl
@[simp] theorem beginExecute_result (n : Int) : (beginExecute n s).result = none := rfl
@[simp] theorem beginExecute_params (n : Int) : (beginExecute n s).params = s.params := rfl

@[simp] theorem raiseUnknownOpcode_status (op : Byte) : (raiseUnknownOpcode op s).status = s.status := rfl
@[simp] theorem raiseUnknownOpcode_pc (op : Byte) : (raiseUnknownOpcode op s).pc = s.pc := rfl
@[simp] theorem raiseUnknownOpcode_sp (op : Byte) : (raiseUnknownOpcode op s).sp = s.sp := rfl
@[simp] theorem raiseUnknownOpcode_a (op : Byte) : (raiseUnknownOpcode op s).a = s.a := rfl
@[simp] theorem raiseUnknownOpcode_x (op : Byte) : (raiseUnknownOpcode op s).x = s.x := rfl
@[simp] theorem raiseUnknownOpcode_y (op : Byte) : (raiseUnknownOpcode op s).y = s.y := rfl
@[simp] theorem raiseUnknownOpcode_flags (op : Byte) : (raiseUnknownOpcode op s).flags = s.flags := rfl
@[simp] theorem raiseUnknownOpcode_mem (op : Byte) : (raiseUnknownOpcode op s).mem = s.mem := rfl
@[simp] theorem raiseUnknownOpcode_control (op : Byte) : (raiseUnknownOpcode op s).control = .idle := rfl
@[simp] theorem raiseUnknownOpcode_result (op : Byte) : (raiseUnknownOpcode op s).result = some (.fail (.unknownOpcode op)) := rfl
@[simp] theorem raiseUnknownOpcode_params (op : Byte) : (raiseUnknownOpcode op s).params = s.params := rfl

@[simp] theorem finishExecute_status (req cyc : Int) : (finishExecute req cyc s).status = s.status := rfl
@[simp] theorem finishExecute_pc (req cyc : Int) : (finishExecute req cyc s).pc = s.pc := rfl
@[simp] theorem finishExecute_sp (req cyc : Int) : (finishExecute req cyc s).sp = s.sp := rfl
@[simp] theorem finishExecute_a (req cyc : Int) : (finishExecute req cyc s).a = s.a := rfl
@[simp] theorem finishExecute_x (req cyc : Int) : (finishExecute req cyc s).x = s.x := rfl
@[simp] theorem finishExecute_y (req cyc : Int) : (finishExecute req cyc s).y = s.y := rfl
@[simp] theorem finishExecute_flags (req cyc : Int) : (finishExecute req cyc s).flags = s.flags := rfl
@[simp] theorem finishExecute_mem (req cyc : Int) : (finishExecute req cyc s).mem = s.mem := rfl
@[simp] theorem finishExecute_control (req cyc : Int) : (finishExecute req cyc s).control = .idle := rfl
@[simp] theorem finishExecute_result (req cyc : Int) : (finishExecute req cyc s).result = some (.ok (req - cyc)) := rfl
@[simp] theorem finishExecute_params (req cyc : Int) : (finishExecute req cyc s).params = s.params := rfl

@[simp] theorem Control.charge_idle (n : Nat) : Control.charge n .idle = .idle := rfl

@[simp] theorem Control.charge_executing (n : Nat) (req cyc : Int) :
    Control.charge n (.executing req cyc) = .executing req (cyc - n) := rfl

@[simp] theorem Control.charge_zero (c : Control) : c.charge 0 = c := by
  cases c <;> simp

/-- Two charges are one. -/
@[simp] theorem Control.charge_charge (c : Control) (m n : Nat) :
    (c.charge m).charge n = c.charge (m + n) := by
  cases c with
  | idle => rfl
  | executing req cyc => simp only [Control.charge_executing, Nat.cast_add, Int.sub_sub]

@[simp] theorem loadFlags_z (v : Byte) (f : Flags) : (loadFlags v f).z = zeroFlag v := rfl
@[simp] theorem loadFlags_n (v : Byte) (f : Flags) : (loadFlags v f).n = negativeFlag v := rfl
@[simp] theorem loadFlags_c (v : Byte) (f : Flags) : (loadFlags v f).c = f.c := rfl
@[simp] theorem loadFlags_i (v : Byte) (f : Flags) : (loadFlags v f).i = f.i := rfl
@[simp] theorem loadFlags_d (v : Byte) (f : Flags) : (loadFlags v f).d = f.d := rfl
@[simp] theorem loadFlags_b (v : Byte) (f : Flags) : (loadFlags v f).b = f.b := rfl
@[simp] theorem loadFlags_v (v : Byte) (f : Flags) : (loadFlags v f).v = f.v := rfl

end Sys2Proof.Machine
end

