-- ==== Sys2Proof/Laws/Ops.lean ====
section
/-! SUPPORT. One lemma per shared operation that says everything it does: later proofs cite it instead of unfolding
the operation. -/

namespace Sys2Proof.Machine

variable (s : State)

theorem fetchOpcode_eq :
    fetchOpcode s = { s with pc := s.pc + 1, control := s.control.charge 1 } := rfl

/-- All that the two fetches of a format F2 instruction do. -/
theorem fetchedF2_eq :
    fetchedF2 s = { s with pc := s.pc + 2, control := s.control.charge 2 } := by
  simp only [fetchedF2, fetchByte, fetchOpcode, State.advance, State.charge,
    Control.charge_charge, BitVec.add_assoc]
  rfl

/-- All that the two fetches of a format F3 instruction do. -/
theorem fetchedF3_eq :
    fetchedF3 s = { s with pc := s.pc + 3, control := s.control.charge 3 } := by
  simp only [fetchedF3, fetchWord, fetchByte, fetchOpcode, State.advance, State.charge,
    Control.charge_charge, BitVec.add_assoc]
  rfl

@[simp] theorem readByte_fst (a : Word) : (readByte a s).1 = s.mem.read a := rfl
@[simp] theorem readByte_snd (a : Word) : (readByte a s).2 = s.charge 1 := rfl

theorem State.charge_charge (m n : Nat) : (s.charge m).charge n = s.charge (m + n) := by
  simp [State.charge]

theorem readZeroPagePointer_eq (p : Byte) :
    readZeroPagePointer p s =
      (joinBytes (s.mem.read (zext16 (p + 1))) (s.mem.read (zext16 p)), s.charge 2) := by
  simp [readZeroPagePointer, State.charge_charge]

/-- A `ReadWord` at `base +16 zext16 idx`, and what an indexed read does. -/
theorem readIndexed_eq (base : Word) (idx : Byte) :
    readIndexed base idx s =
      (s.mem.read (base + zext16 idx),
        s.charge (1 + (pageCrossCoarse s.params.pageCrossArith base (base + zext16 idx)).toNat)) := by
  unfold readIndexed
  cases h : pageCrossCoarse s.params.pageCrossArith base (base + zext16 idx) <;>
    simp [readByte, h, State.charge_charge]

/-- After the fetches of a format F3 instruction, PC -16 1 is the address of its last byte (R108). -/
theorem pastF3_sub_one (pc : Word) : pc + 3 - 1 = pc + 2 := by
  bv_omega

/-- All that the body of JSR does. -/
theorem jumpSubroutine_eq (t : Word) :
    jumpSubroutine t s =
      { s with
        pc := t
        sp := s.sp - 2
        mem := (s.mem.write (zext16 s.sp) (lowByte (s.pc - 1))).write (zext16 s.sp + 1)
          (highByte (s.pc - 1))
        control := s.control.charge 3 } := by
  simp [jumpSubroutine, writeWord, State.setSp, State.setPc, State.charge, State.writeMem]

/-- All that the failing pass of the loop does. -/
theorem failAtPc_eq :
    failAtPc s =
      { s with
        pc := s.pc + 1
        control := .idle
        result := some (.fail (.unknownOpcode (s.mem.read s.pc))) } := rfl

/-- `WriteWord` keeps the canonical form of memory. -/
theorem writeWord_wf {s : State} (h : Memory.wf s.mem) (a v : Word) :
    Memory.wf (writeWord a v s).mem :=
  Memory.write_wf (Memory.write_wf h _ _) _ _

/-- JSR keeps the canonical form of memory. -/
theorem jumpSubroutine_wf {s : State} (h : Memory.wf s.mem) (t : Word) :
    Memory.wf (jumpSubroutine t s).mem :=
  writeWord_wf h _ _

/-- The bytes of a table word are stored in canonical form. -/
theorem writeBytes_wf {s : State} (h : Memory.wf s.mem) (a : Word) (bs : List Byte) :
    Memory.wf (s.writeBytes a bs).mem := by
  induction bs generalizing a s with
  | nil => exact h
  | cons b rest ih => exact ih (Memory.write_wf h a b) (a + 1)

end Sys2Proof.Machine
end

