-- ==== Sys2Proof/Laws/PerInstr.lean ====
section
/-! SUPPORT. Statements made per instruction about its syntax. -/

namespace Sys2Proof.Laws.EncodedLength

/-- An instruction's encoding is as long as its opcode says (30_encoding.md R57, R59), under every map. -/
def Statement (i : Instr) : Prop := ∀ m : OpcodeMap, (encode m i).length = i.opcode.length

theorem ldaImm (v : Byte) : Statement (.ldaImm v) := fun _ => rfl
theorem ldaZp (v : Byte) : Statement (.ldaZp v) := fun _ => rfl
theorem ldaZpX (v : Byte) : Statement (.ldaZpX v) := fun _ => rfl
theorem ldaAbs (w : Word) : Statement (.ldaAbs w) := fun _ => rfl
theorem ldaAbsX (w : Word) : Statement (.ldaAbsX w) := fun _ => rfl
theorem ldaAbsY (w : Word) : Statement (.ldaAbsY w) := fun _ => rfl
theorem ldaIndX (v : Byte) : Statement (.ldaIndX v) := fun _ => rfl
theorem ldaIndY (v : Byte) : Statement (.ldaIndY v) := fun _ => rfl
theorem jsr (w : Word) : Statement (.jsr w) := fun _ => rfl

end Sys2Proof.Laws.EncodedLength
end

