-- ==== Sys2Proof/Tests/Slice0.lean ====
section
/-! SUPPORT. The model's own tests. Expected values are from the spec: the encodings of 30_encoding.md R60 and R68, and
the vectors of 95_test_vectors.md, whose ids the comments give. -/

namespace Sys2Proof.Tests

open Machine

/-! ### Helpers -/

/-- Bytes at 0xFFFC after reset, other bytes placed by the host, inside an `Execute(1)`. -/
def boot (code : List Byte) (data : List (Word × Byte)) : State :=
  let s := data.foldl (fun s c => s.writeMem c.1 c.2) (State.reset.writeBytes 0xFFFC code)
  beginExecute 1 s

/-- What a load shows: A, Z, N, PC and the counter. -/
def seen (o : Host.Outcome State Fault Refusal) : Option (Byte × Bool × Bool × Word × Control) :=
  match o with
  | .next t => some (t.a, t.flags.z, t.flags.n, t.pc, t.control)
  | .fault _ => none
  | .refused _ => none

/-- What a JSR shows: PC, SP, the two bytes at `a`, and the counter. -/
def seenJsr (a : Word) (o : Host.Outcome State Fault Refusal) :
    Option (Word × Byte × Byte × Byte × Control) :=
  match o with
  | .next t => some (t.pc, t.sp, t.mem.read a, t.mem.read (a + 1), t.control)
  | .fault _ => none
  | .refused _ => none

/-! ### Well-formedness: the check refuses a map with two equal bytes (R65) -/

theorem test_wellFormed_default : defaultParams.WellFormed := by decide

theorem test_wellFormed_refuses_repeated_byte :
    ¬ ({ defaultOpcodeMap with jsr := 0xA9 } : OpcodeMap).WellFormed := by decide

/-! ### Decoding: words written out bit by bit from the encoding column of the opcode table -/

theorem test_decode_ldaImm :
    decodeTableWord 16 0b10000100_10101001 = some (.ldaImm 0x84) := by decide
theorem test_decode_ldaZp :
    decodeTableWord 16 0b01000010_10100101 = some (.ldaZp 0x42) := by decide
theorem test_decode_ldaZpX :
    decodeTableWord 16 0b01000010_10110101 = some (.ldaZpX 0x42) := by decide
theorem test_decode_ldaAbs :
    decodeTableWord 24 0b01000100_10000000_10101101 = some (.ldaAbs 0x4480) := by decide
theorem test_decode_ldaAbsX :
    decodeTableWord 24 0b01000100_10000000_10111101 = some (.ldaAbsX 0x4480) := by decide
theorem test_decode_ldaAbsY :
    decodeTableWord 24 0b01000100_10000000_10111001 = some (.ldaAbsY 0x4480) := by decide
theorem test_decode_ldaIndX :
    decodeTableWord 16 0b00000010_10100001 = some (.ldaIndX 0x02) := by decide
theorem test_decode_ldaIndY :
    decodeTableWord 16 0b00000010_10110001 = some (.ldaIndY 0x02) := by decide
theorem test_decode_jsr :
    decodeTableWord 24 0b00010010_00110100_00100000 = some (.jsr 0x1234) := by decide

/-- The opcode byte alone: operand bytes of zeros. -/
theorem test_decode_short_word : decodeTableWord 8 0xFFFFAD = some (.ldaAbs 0x0000) := by decide

theorem test_decode_unknown : decodeTableWord 8 0xEA = none := by decide

theorem test_decode_truncated :
    decode defaultOpcodeMap [0xAD, 0x80] = .error .truncated := by rfl

/-- R68: `LDA ($02),Y` is B1 02. -/
theorem test_encode_ldaIndY : encode defaultOpcodeMap (.ldaIndY 0x02) = [0xB1, 0x02] := by decide

/-- R68: `JSR $4242`; the example with two different bytes is `LDA $4480,X`, BD 80 44. -/
theorem test_encode_ldaAbsX : encode defaultOpcodeMap (.ldaAbsX 0x4480) = [0xBD, 0x80, 0x44] := by
  decide

/-- R70: an unknown opcode is shown as `.byte $nn`. -/
theorem test_disassemble_unknown :
    disassemble defaultOpcodeMap 0x4C 0 0 = ".byte $4C".toList := by decide

/-- R68: `LDA ($02,X)`. -/
theorem test_disassemble_ldaIndX :
    disassemble defaultOpcodeMap 0xA1 0x02 0 = "LDA ($02,X)".toList := by decide

/-! ### Loads: at most two vectors each -/

/-- L1-2 -/
theorem test_ldaImm_negative :
    seen (step (boot [0xA9, 0x84] [])) =
      some (0x84, false, true, 0xFFFE, .executing 1 (-1)) := by decide
/-- V-IMM-5: the operand is fetched across the top of memory. -/
theorem test_ldaImm_wraps :
    seen (step ((boot [] [(0xFFFF, 0xA9), (0x0000, 0x42)]).setPc 0xFFFF)) =
      some (0x42, false, false, 0x0001, .executing 1 (-1)) := by decide
/-- V-ZP-1 -/
theorem test_ldaZp_top :
    seen (step (boot [0xA5, 0xFF] [(0x00FF, 0x80)])) =
      some (0x80, false, true, 0xFFFE, .executing 1 (-2)) := by decide
/-- V-ZP-3: zp FD is 0x00FD, not the instruction's own 0xFFFD. -/
theorem test_ldaZp_high_byte_zero :
    seen (step (boot [0xA5, 0xFD] [])) =
      some (0x00, true, false, 0xFFFE, .executing 1 (-2)) := by decide
/-- V-ZPX-2: 0xFF + 1 wraps to 0x00, not 0x0100. -/
theorem test_ldaZpX_wraps :
    seen (step { boot [0xB5, 0xFF] [(0x0000, 0x90), (0x0100, 0x11)] with x := 0x01 }) =
      some (0x90, false, true, 0xFFFE, .executing 1 (-3)) := by decide
/-- L1-5 -/
theorem test_ldaZpX_adds :
    seen (step { boot [0xB5, 0x42] [(0x0047, 0x37)] with x := 0x05 }) =
      some (0x37, false, false, 0xFFFE, .executing 1 (-3)) := by decide
/-- V-ABS-1: reads its own opcode byte. -/
theorem test_ldaAbs_own_opcode :
    seen (step (boot [0xAD, 0xFC, 0xFF] [])) =
      some (0xAD, false, true, 0xFFFF, .executing 1 (-3)) := by decide
/-- L1-7: cost 5. -/
theorem test_ldaAbsX_penalty :
    seen (step { boot [0xBD, 0x02, 0x44] [(0x4501, 0x37)] with x := 0xFF }) =
      some (0x37, false, false, 0xFFFF, .executing 1 (-4)) := by decide
/-- V-ABX-2: a real crossing, no penalty. -/
theorem test_ldaAbsX_no_penalty_on_crossing :
    seen (step { boot [0xBD, 0xFF, 0x44] [(0x4500, 0x5A)] with x := 0x01 }) =
      some (0x5A, false, false, 0xFFFF, .executing 1 (-3)) := by decide
/-- V-ABY-1: Y is the index, not X. -/
theorem test_ldaAbsY_index :
    seen (step { boot [0xB9, 0x02, 0x44] [(0x4501, 0x84), (0x4412, 0x01)] with
      x := 0x10, y := 0xFF }) =
      some (0x84, false, true, 0xFFFF, .executing 1 (-4)) := by decide
/-- V-INDX-3: the pointer at 0xFF takes its high byte from 0x0000. -/
theorem test_ldaIndX_zeroPage :
    seen (step { boot [0xA1, 0xFE] [(0x00FF, 0x34), (0x0000, 0x12), (0x0100, 0x56),
      (0x1234, 0x11), (0x5634, 0x22)] with x := 0x01 }) =
      some (0x11, false, false, 0xFFFE, .executing 1 (-5)) := by decide
/-- V-INDX-4: the other setting. -/
theorem test_ldaIndX_none :
    seen (step { boot [0xA1, 0xFE] [(0x00FF, 0x34), (0x0000, 0x12), (0x0100, 0x56),
      (0x1234, 0x11), (0x5634, 0x22)] with
      x := 0x01, params := { defaultParams with indxPtrWrap := .none } }) =
      some (0x22, false, false, 0xFFFE, .executing 1 (-5)) := by decide
/-- V-INDY-1: the pointer at 0xFF reads 0x00FF and 0x0100. -/
theorem test_ldaIndY_none :
    seen (step (boot [0xB1, 0xFF] [(0x00FF, 0x00), (0x0100, 0x30), (0x0000, 0x40),
      (0x3000, 0x11), (0x4000, 0x22)])) =
      some (0x11, false, false, 0xFFFE, .executing 1 (-4)) := by decide
/-- V-INDY-7: a wrapping add is charged under `modular`. -/
theorem test_ldaIndY_modular :
    seen (step { boot [0xB1, 0x10] [(0x0010, 0x80), (0x0011, 0xFF)] with
      y := 0xFF, params := { defaultParams with pageCrossArith := .modular } }) =
      some (0x00, true, false, 0xFFFE, .executing 1 (-5)) := by decide

/-! ### JSR -/

/-- V-JSR-1: SP = 0 writes 0x0000 and 0x0001 and wraps to FE. -/
theorem test_jsr_sp_wraps :
    seenJsr 0x0000 (step { boot [0x20, 0x34, 0x12] [] with sp := 0x00 }) =
      some (0x1234, 0xFE, 0xFE, 0xFF, .executing 1 (-5)) := by decide
/-- V-JSR-4: the target's high byte is at 0x0000 and the word written is 0x0000. -/
theorem test_jsr_straddles_top :
    seenJsr 0x00FF (step ((boot [] [(0xFFFE, 0x20), (0xFFFF, 0x34), (0x0000, 0x12)]).setPc 0xFFFE)) =
      some (0x1234, 0xFD, 0x00, 0x00, .executing 1 (-5)) := by decide

/-! ### The loop and the host -/

/-- V-EX-8, L1-3: reset memory is an unknown opcode; PC is one past it and the failure is recorded. -/
theorem test_unknown_opcode :
    step (boot [] []) = .next { State.reset with
      pc := 0xFFFD, result := some (.fail (.unknownOpcode 0x00)) } := by rfl

/-- L1-1 -/
theorem test_execute_zero :
    host (.execute 0) State.reset =
      .reply (.result (some (.ok 0))) { State.reset with result := some (.ok 0) } := by decide

/-- V-EX-3: the second load starts with cyc = 1 and runs whole. -/
theorem test_execute_overruns :
    (execute 3 (State.reset.writeBytes 0xFFFC [0xA9, 0x11, 0xA9, 0x22])).result =
      some (.ok 4) := by decide

/-- V-RST-2: reset loads no vector. -/
theorem test_reset_no_vector :
    (host .reset (State.reset.writeBytes 0xFFFC [0x34, 0x12])).after State.reset =
      State.reset := by decide

/-- An instruction placed by `withFetchWord` runs at the very next step after reset. -/
theorem test_withFetchWord :
    seen (step (State.reset.withFetchWord 16 0x84A9)) =
      some (0x84, false, true, 0xFFFE, .executing 1 (-1)) := by decide

/-! ### Witnesses: for each statement with hypotheses, a state and operands that meet them all -/

/-- Bytes at PC of a Ready core inside a call: the hypothesis of the step half of each result statement. -/
theorem witness_aboutToRun_byte_operand :
    (boot [0xA9, 0x84] []).AboutToRun [defaultOpcodeMap.ldaImm, 0x84] ∧
    (boot [0xA5, 0xFF] []).AboutToRun [defaultOpcodeMap.ldaZp, 0xFF] ∧
    (boot [0xB5, 0xFF] []).AboutToRun [defaultOpcodeMap.ldaZpX, 0xFF] ∧
    (boot [0xA1, 0xFE] []).AboutToRun [defaultOpcodeMap.ldaIndX, 0xFE] ∧
    (boot [0xB1, 0xFF] []).AboutToRun [defaultOpcodeMap.ldaIndY, 0xFF] := by decide

theorem witness_aboutToRun_word_operand :
    (boot [0xAD, 0xFC, 0xFF] []).AboutToRun [defaultOpcodeMap.ldaAbs, 0xFC, 0xFF] ∧
    (boot [0xBD, 0x02, 0x44] []).AboutToRun [defaultOpcodeMap.ldaAbsX, 0x02, 0x44] ∧
    (boot [0xB9, 0x02, 0x44] []).AboutToRun [defaultOpcodeMap.ldaAbsY, 0x02, 0x44] ∧
    (boot [0x20, 0x34, 0x12] []).AboutToRun [defaultOpcodeMap.jsr, 0x34, 0x12] := by decide

/-- StepRunsEncodedInstruction, at the top of memory. -/
theorem witness_aboutToRun_wrapping :
    ((boot [] [(0xFFFF, 0x20), (0x0000, 0x34), (0x0001, 0x12)]).setPc 0xFFFF).AboutToRun
      (encode defaultOpcodeMap (.jsr 0x1234)) := by decide

/-- DecodeOfEncode and DecodeInvertsOpcodeMap: an injective map, and a byte it does not take. -/
theorem witness_map :
    defaultOpcodeMap.WellFormed ∧ (∀ k : Opcode, defaultOpcodeMap.byteOf k ≠ 0x00) := by
  refine ⟨by decide, fun k => ?_⟩
  rcases k with ⟨_ | _⟩ | _ <;> decide

/-- EncodeOfDecode and LengthFromOpcode: bytes that decode, with bytes left over, in each format. -/
theorem witness_decodes :
    decode defaultOpcodeMap [0x20, 0x34, 0x12, 0xFF] = .ok (.jsr 0x1234, [0xFF]) ∧
    Opcode.jsr.format = .f3 ∧
    decode defaultOpcodeMap [0xA1, 0x02, 0xFF] = .ok (.ldaIndX 0x02, [0xFF]) ∧
    (Opcode.lda .indx).format = .f2 := ⟨rfl, rfl, rfl, rfl⟩

/-- MemoryExtensionality: two canonical memories, built differently, that read the same everywhere. -/
theorem witness_memoryExtensionality :
    let m : Memory := (Memory.init.write 0x0010 0x01).write 0x0005 0x02
    let n : Memory := (Memory.init.write 0x0005 0x02).write 0x0010 0x01
    Memory.wf m ∧ Memory.wf n ∧ ∀ a : Word, m.read a = n.read a := by
  exact ⟨by decide, by decide, fun _ => rfl⟩

/-- WriteWordStoresLittleEndian, ReadWordAfterWriteWord, FetchSeesWrittenByte, JsrMemoryFrame: a canonical
memory that lists a cell, and a fifth byte that none of the stores reaches. -/
theorem witness_memory_wf :
    Memory.wf (boot [0x20, 0x34, 0x12] []).mem ∧
      (0x0005 : Word) ≠ zext16 0xFF ∧ (0x0005 : Word) ≠ zext16 0xFF + 1 := by decide

/-- JsrStackPairsDisjoint: SP at the value it starts from, and two of the 128 calls. -/
theorem witness_jsr_pairs :
    (boot [] []).sp = 0xFF ∧ (0 : Nat) < 127 ∧ (127 : Nat) < 128 ∧ (1 : Word) ≤ 1 := by decide

/-- StepRunsDecodedInstruction: a Ready core inside a call, an instruction at PC. -/
theorem witness_runs :
    let s := boot [0xA9, 0x84] []
    s.status = .ready ∧ s.control.positive = true ∧
    decodeBytes s.params.opcodeMap (s.mem.read s.pc) (s.mem.read (s.pc + 1))
      (s.mem.read (s.pc + 2)) = some (.ldaImm 0x84) := by decide

/-- StepOutsideInstructions, both clauses: an idle core, and a call whose counter is exactly spent. -/
theorem witness_outside :
    (State.reset.status = .ready ∧ State.reset.control = .idle) ∧
    ((beginExecute 0 State.reset).status = .ready ∧
      (beginExecute 0 State.reset).control = .executing 0 0 ∧ (0 : Int) ≤ 0) := by decide

/-- UnknownOpcodeFailure and CoreGoesOnAfterFailure: an unknown opcode with cyc = 1. -/
theorem witness_unknown :
    (boot [] []).status = .ready ∧ (boot [] []).control = .executing 1 1 ∧ (0 : Int) < 1 ∧
    (boot [] []).control.positive = true ∧ instrAt (boot [] []) = none ∧
    decodeOpcode (boot [] []).params.opcodeMap ((boot [] []).mem.read 0xFFFC) = none ∧
    step (boot [] []) = .next (failAtPc (boot [] [])) := by
  refine ⟨?_, ?_, ?_, ?_, ?_, ?_, rfl⟩ <;> decide

/-- LoadFrame and LoadReadsOnlyItsAddresses: a load, and a memory that differs where it does not read. -/
theorem witness_load :
    (Instr.ldaIndY 0x10).opcode ≠ .jsr ∧
    ∀ b ∈ (Instr.ldaIndY 0x10).dataAddrs State.reset,
      (Memory.init.write 0x4000 0xFF).read b = State.reset.mem.read b := by
  have h : (Instr.ldaIndY 0x10).dataAddrs State.reset = [0x0010, 0x0011, 0x0000] := by decide
  refine ⟨by decide, fun b hb => ?_⟩
  simp only [h, List.mem_cons, List.not_mem_nil, or_false] at hb
  rcases hb with rfl | rfl | rfl <;> rfl

/-- ParametersAgreeAwayFromCorners, the pointer clauses at their boundaries; the first is LdaIndirectXResult's last
clause as well. -/
theorem witness_corners_pointers :
    (Instr.ldaIndX 0xFE).AwayFromCorners State.reset ∧
    (Instr.ldaIndY 0xFE).AwayFromCorners
      { State.reset.writeMem 0x00FF 0xFF with y := 0xFF } := by
  refine ⟨?_, ?_⟩ <;> unfold Instr.AwayFromCorners <;> decide

/-- ParametersAgreeAwayFromCorners, the penalty clauses: the index 0xFF with the largest base that does not wrap. -/
theorem witness_corners_index_FF :
    (Instr.ldaAbsX 0xFF00).AwayFromCorners { State.reset with x := 0xFF } ∧
    (Instr.ldaAbsY 0xFF00).AwayFromCorners { State.reset with y := 0xFF } := by
  refine ⟨?_, ?_⟩ <;> unfold Instr.AwayFromCorners <;> decide

/-- ParametersAgreeAwayFromCorners, the penalty clauses: base or pointer 0xFFFF with index 1, a sum that wraps
(V-ABX-3). -/
theorem witness_corners_wrapping_sum :
    (Instr.ldaAbsX 0xFFFF).AwayFromCorners { State.reset with x := 0x01 } ∧
    (Instr.ldaAbsY 0xFFFF).AwayFromCorners { State.reset with y := 0x01 } ∧
    (Instr.ldaIndY 0x10).AwayFromCorners
      { (State.reset.writeMem 0x0010 0xFF).writeMem 0x0011 0xFF with y := 0x01 } ∧
    wordAt ((State.reset.writeMem 0x0010 0xFF).writeMem 0x0011 0xFF).mem
      (indyPointerAddrs State.reset 0x10) = 0xFFFF := by
  refine ⟨?_, ?_, ?_, by decide⟩ <;> unfold Instr.AwayFromCorners <;> decide

/-- StepKeepsInertState, StepChangesByKind, StepReadsNoFlagAndNoAccumulator, CounterFallsEachStep: a step that
answers a next state, which writes SP and memory, and stays inside the call. -/
theorem witness_step :
    ∃ t : State, step (beginExecute 9 (boot [0x20, 0x34, 0x12] [])) = .next t ∧ t.sp ≠ 0xFF ∧
      (beginExecute 9 (boot [0x20, 0x34, 0x12] [])).control = .executing 9 9 ∧
      t.control = .executing 9 3 := by
  refine ⟨_, rfl, ?_, ?_, ?_⟩ <;> decide

/-- The other clause of StepChangesByKind: a step that writes A and the flags. -/
theorem witness_step_load :
    ∃ t : State, step (boot [0xA9, 0x84] []) = .next t ∧ t.a ≠ (boot [0xA9, 0x84] []).a := by
  refine ⟨_, rfl, ?_⟩
  decide

/-- StepKeepsInvariant: a state with the invariant inside a call, from which a step answers a next state. -/
theorem witness_inv :
    (boot [0xA9, 0x84] []).Inv ∧ ∃ t : State, step (boot [0xA9, 0x84] []) = .next t := by
  refine ⟨⟨?_, ?_, ?_, ?_, ?_⟩, _, rfl⟩
  · decide
  · decide
  · exact ⟨by decide, .inl rfl⟩
  · intro r h
    exact absurd h (by simp [boot])
  · intro h
    exact absurd h (by decide)

/-- StepIsOneLoopPass: the control states at the boundary of the counter test. -/
theorem witness_loop :
    (beginExecute 0 State.reset).control = .executing 0 0 ∧
    (beginExecute 1 State.reset).control = .executing 1 1 ∧
    (beginExecute 1 State.reset).status = .ready := by decide

/-- ResetFromAnyState, UnresetIsRefused: an idle core that was never reset, and an operation that is not
Reset. -/
theorem witness_unreset :
    (State.neverReset defaultParams).status = .unreset ∧
    (State.neverReset defaultParams).control = .idle ∧ HostOp.readPc ≠ HostOp.reset := by decide

/-- HostCannotActInsideExecute. -/
theorem witness_busy : (beginExecute 1 State.reset).control = .executing 1 1 := by decide

/-- HostRegisterAccess, HostMemoryAccess, ExecuteTerminates: a Ready idle core with a canonical memory, and
another register and flag beside the one written. -/
theorem witness_host :
    State.reset.status = .ready ∧ State.reset.control = .idle ∧ Memory.wf State.reset.mem = true ∧
    ByteReg.a ≠ ByteReg.sp ∧ FlagReg.c ≠ FlagReg.n := by decide

/-- NoBudgetRunsNothing at the boundary. -/
theorem witness_no_budget :
    State.reset.status = .ready ∧ State.reset.control = .idle ∧ (0 : Int) ≤ 0 := by decide

/-- BudgetOverrunBound and UsedIsSumOfCosts: a call that returns normally, with the largest overrun
(V-EX-7). -/
theorem witness_overrun :
    ∃ t : State, (1 : Int) ≤ 1 ∧
      host (.execute 1) (State.reset.writeBytes 0xFFFC [0x20, 0x00, 0x02]) =
        .reply (.result (some (.ok 6))) t := by
  refine ⟨_, by decide, rfl⟩

/-- SingleStepping, both clauses. -/
theorem witness_single_step :
    instrAt (State.reset.writeBytes 0xFFFC [0xA9, 0x84]) = some (.ldaImm 0x84) ∧
    instrAt State.reset = none ∧ (State.reset.writeBytes 0xFFFC [0xA9, 0x84]).status = .ready ∧
    (State.reset.writeBytes 0xFFFC [0xA9, 0x84]).control = .idle := by decide

/-- HostOperationKeepsInvariant: an idle state with the invariant whose memory lists a cell. -/
theorem witness_host_inv :
    (State.reset.writeMem 0x0005 0x01).Inv ∧
    (State.reset.writeMem 0x0005 0x01).control = .idle := by
  refine ⟨⟨by decide, by decide, trivial, ?_, fun _ => rfl⟩, rfl⟩
  intro r h
  exact absurd h (by simp [State.reset, State.resetWith])

/-- SessionKeepsInvariant: well-formed parameters that are not the defaults. -/
theorem witness_session :
    ({ defaultParams with indxPtrWrap := .none, pageCrossArith := .modular } : Params).WellFormed := by
  decide

end Sys2Proof.Tests
end

section
/-! PROOF. What a word written leaves to be read. -/

namespace Sys2Proof.Machine

theorem readWord_eq (s : State) (a : Word) :
    readWord a s = (wordAt s.mem (a, a + 1), s.charge 2) := by
  simp [readWord, wordAt, State.charge_charge]

/-- The two bytes of a word, joined, are the word (20_memory.md R47). -/
theorem joinBytes_highByte_lowByte (v : Word) : joinBytes (highByte v) (lowByte v) = v :=
  BitVec.extractLsb'_append_extractLsb'_eq_extractLsb' (by rfl) |>.trans (by simp)

/-- What `WriteWord` leaves to be read: its two bytes, and the old byte everywhere else. -/
theorem read_writeWord {s : State} (h : Memory.wf s.mem) (a v b : Word) :
    (writeWord a v s).mem.read b =
      if b = a + 1 then highByte v else if b = a then lowByte v else s.mem.read b := by
  simp [writeWord, Memory.read_write (Memory.write_wf h _ _), Memory.read_write h]

/-- The second store does not overwrite the first: no address is its own successor, even with the wrap at 0xFFFF
(20_memory.md R48). -/
theorem wordAt_writeWord {s : State} (h : Memory.wf s.mem) (a v : Word) :
    wordAt (writeWord a v s).mem (a, a + 1) = v := by
  have hne : a ≠ a + 1 := by bv_omega
  rw [wordAt, read_writeWord h, read_writeWord h, if_pos rfl, if_neg hne, if_pos rfl,
    joinBytes_highByte_lowByte]

/-- Settles O12, by the read of the word that `WriteWord` leaves. -/
theorem readWordAfterWriteWord : Obligations.ReadWordAfterWriteWord := by
  intro s a v h
  rw [readWord_eq]
  exact wordAt_writeWord h a v

end Sys2Proof.Machine
end

section
/-! PROOF. What each instruction does: one equation each, in the words of the rules (`loaded`, `penalty`). -/

namespace Sys2Proof.Machine

/-! ### The penalty and the pointers, as the rules give them -/

section Addressing

variable (s : State)

/-- The penalty the model charges is the one of the rules (R89). -/
theorem pageCrossCoarse_toNat (arith : PageCrossArith) (base : Word) (idx : Byte) :
    (pageCrossCoarse arith base (base + zext16 idx)).toNat = penalty arith base idx := by
  cases arith <;> simp [pageCrossCoarse, penalty, Bool.toNat, Bool.cond_decide]

theorem readIndexed_eq_penalty (base : Word) (idx : Byte) :
    readIndexed base idx s =
      (s.mem.read (base + zext16 idx), s.charge (1 + penalty s.params.pageCrossArith base idx)) := by
  rw [readIndexed_eq, pageCrossCoarse_toNat]

theorem indxPointer_eq (zp : Byte) :
    indxPointer zp s = (wordAt s.mem (indxPointerAddrs s zp), s.charge 2) := by
  cases h : s.params.indxPtrWrap <;>
    simp [indxPointer, indxPointerAddrs, h, readZeroPagePointer_eq, readWord_eq, wordAt]

theorem indyPointer_eq (zp : Byte) :
    indyPointer zp s = (wordAt s.mem (indyPointerAddrs s zp), s.charge 2) := by
  cases h : s.params.indyPtrWrap <;>
    simp [indyPointer, indyPointerAddrs, h, readZeroPagePointer_eq, readWord_eq, wordAt]

theorem State.charge_zero : s.charge 0 = s := by
  simp [State.charge]

/-! ### After the fetches of the instruction's own bytes -/

@[simp] theorem fetchedF2_mem : (fetchedF2 s).mem = s.mem := rfl
@[simp] theorem fetchedF2_x : (fetchedF2 s).x = s.x := rfl
@[simp] theorem fetchedF2_y : (fetchedF2 s).y = s.y := rfl
@[simp] theorem fetchedF2_params : (fetchedF2 s).params = s.params := rfl

@[simp] theorem fetchedF3_mem : (fetchedF3 s).mem = s.mem := rfl
@[simp] theorem fetchedF3_x : (fetchedF3 s).x = s.x := rfl
@[simp] theorem fetchedF3_y : (fetchedF3 s).y = s.y := rfl
@[simp] theorem fetchedF3_params : (fetchedF3 s).params = s.params := rfl

@[simp] theorem indxPointerAddrs_fetchedF2 (n : Nat) (zp : Byte) :
    indxPointerAddrs ((fetchedF2 s).charge n) zp = indxPointerAddrs s zp := rfl

@[simp] theorem indyPointerAddrs_fetchedF2 (zp : Byte) :
    indyPointerAddrs (fetchedF2 s) zp = indyPointerAddrs s zp := rfl

/-- A format F2 load whose mode charges `n` after the fetches. -/
theorem loadA_charge_fetchedF2 (n : Nat) (v : Byte) :
    loadA v ((fetchedF2 s).charge n) = s.loaded 2 (2 + n) v := by
  simp [fetchedF2_eq, loadA, State.charge, State.loaded, loadFlags, zeroFlag, negativeFlag]

/-- A format F3 load whose mode charges `n` after the fetches. -/
theorem loadA_charge_fetchedF3 (n : Nat) (v : Byte) :
    loadA v ((fetchedF3 s).charge n) = s.loaded 3 (3 + n) v := by
  simp [fetchedF3_eq, loadA, State.charge, State.loaded, loadFlags, zeroFlag, negativeFlag]

/-! ### The nine meanings -/

theorem exec_ldaImm (imm8 : Byte) : exec (.ldaImm imm8) s = .next (s.loaded 2 2 imm8) := by
  rw [← loadA_charge_fetchedF2 s 0, State.charge_zero]
  rfl

theorem exec_ldaZp (zp : Byte) :
    exec (.ldaZp zp) s = .next (s.loaded 2 3 (s.mem.read (zext16 zp))) :=
  congrArg _ (loadA_charge_fetchedF2 s 1 _)

theorem exec_ldaZpX (zp : Byte) :
    exec (.ldaZpX zp) s = .next (s.loaded 2 4 (s.mem.read (zext16 (zp + s.x)))) := by
  simp [exec, execLdaZpX, loadResolved, resolveZpX, State.charge_charge, loadA_charge_fetchedF2]

theorem exec_ldaAbs (a : Word) : exec (.ldaAbs a) s = .next (s.loaded 3 4 (s.mem.read a)) :=
  congrArg _ (loadA_charge_fetchedF3 s 1 _)

theorem exec_ldaAbsX (base : Word) :
    exec (.ldaAbsX base) s =
      .next (s.loaded 3 (4 + penalty s.params.pageCrossArith base s.x)
        (s.mem.read (base + zext16 s.x))) := by
  simp [exec, execLdaAbsX, loadResolved, resolveAbsX, readIndexed_eq_penalty,
    loadA_charge_fetchedF3, ← Nat.add_assoc]

theorem exec_ldaAbsY (base : Word) :
    exec (.ldaAbsY base) s =
      .next (s.loaded 3 (4 + penalty s.params.pageCrossArith base s.y)
        (s.mem.read (base + zext16 s.y))) := by
  simp [exec, execLdaAbsY, loadResolved, resolveAbsY, readIndexed_eq_penalty,
    loadA_charge_fetchedF3, ← Nat.add_assoc]

theorem exec_ldaIndX (zp : Byte) :
    exec (.ldaIndX zp) s =
      .next (s.loaded 2 6 (s.mem.read (wordAt s.mem (indxPointerAddrs s zp)))) := by
  simp [exec, execLdaIndX, loadResolved, resolveIndX, indxPointer_eq, State.charge_charge,
    loadA_charge_fetchedF2]

theorem exec_ldaIndY (zp : Byte) :
    exec (.ldaIndY zp) s =
      .next (s.loaded 2
        (5 + penalty s.params.pageCrossArith (wordAt s.mem (indyPointerAddrs s zp)) s.y)
        (s.mem.read (wordAt s.mem (indyPointerAddrs s zp) + zext16 s.y))) := by
  simp [exec, execLdaIndY, loadResolved, resolveIndY, indyPointer_eq, readIndexed_eq_penalty,
    State.charge_charge, loadA_charge_fetchedF2, ← Nat.add_assoc]

/-- The word JSR stores is the address of its last byte, PC +16 2 (R108). -/
theorem exec_jsr (target : Word) :
    exec (.jsr target) s =
      .next { s with
        pc := target
        sp := s.sp - 2
        mem := (s.mem.write (zext16 s.sp) (lowByte (s.pc + 2))).write (zext16 s.sp + 1)
          (highByte (s.pc + 2))
        control := s.control.charge 6 } := by
  simp only [exec, execJsr, jumpSubroutine_eq, fetchedF3_eq, pastF3_sub_one,
    Control.charge_charge]

end Addressing

/-! ### What all instructions have in common -/

/-- Every instruction is a load of some byte, by its length and its cost, or a JSR. -/
theorem exec_cases (i : Instr) (s : State) :
    (i.opcode ≠ .jsr ∧ ∃ v : Byte, exec i s = .next (s.loaded i.opcode.length (i.cost s) v)) ∨
    ∃ target : Word, i = .jsr target := by
  cases i with
  | ldaImm _ => exact .inl ⟨nofun, _, exec_ldaImm s _⟩
  | ldaZp _ => exact .inl ⟨nofun, _, exec_ldaZp s _⟩
  | ldaZpX _ => exact .inl ⟨nofun, _, exec_ldaZpX s _⟩
  | ldaAbs _ => exact .inl ⟨nofun, _, exec_ldaAbs s _⟩
  | ldaAbsX _ => exact .inl ⟨nofun, _, exec_ldaAbsX s _⟩
  | ldaAbsY _ => exact .inl ⟨nofun, _, exec_ldaAbsY s _⟩
  | ldaIndX _ => exact .inl ⟨nofun, _, exec_ldaIndX s _⟩
  | ldaIndY _ => exact .inl ⟨nofun, _, exec_ldaIndY s _⟩
  | jsr target => exact .inr ⟨target, rfl⟩

/-- Every instruction completes, is charged its cost of R140, and keeps status, result and parameters (R120). -/
theorem exec_frame (i : Instr) (s : State) :
    ∃ t : State, exec i s = .next t ∧ t.status = s.status ∧ t.result = s.result ∧
      t.params = s.params ∧ t.control = s.control.charge (i.cost s) := by
  obtain ⟨-, v, h⟩ | ⟨target, rfl⟩ := exec_cases i s
  · exact ⟨_, h, rfl, rfl, rfl, rfl⟩
  · exact ⟨_, exec_jsr s target, rfl, rfl, rfl, rfl⟩

/-- Every instruction keeps the canonical form of memory: a load writes none, JSR writes two bytes. -/
theorem exec_mem_wf {i : Instr} {s t : State} (he : exec i s = .next t) (h : Memory.wf s.mem) :
    Memory.wf t.mem := by
  obtain ⟨-, v, hv⟩ | ⟨target, rfl⟩ := exec_cases i s
  · cases hv.symm.trans he
    exact h
  · cases (exec_jsr s target).symm.trans he
    exact Memory.write_wf (Memory.write_wf h _ _) _ _

theorem penalty_le_one (arith : PageCrossArith) (base : Word) (idx : Byte) :
    penalty arith base idx ≤ 1 :=
  pageCrossCoarse_toNat arith base idx ▸ Bool.toNat_le _

/-- The least and the greatest total of R140. -/
theorem cost_bounds (i : Instr) (s : State) : 2 ≤ i.cost s ∧ i.cost s ≤ 6 := by
  have hp := penalty_le_one s.params.pageCrossArith
  cases i with
  | ldaAbsX base => have := hp base s.x; simp only [Instr.cost]; omega
  | ldaAbsY base => have := hp base s.y; simp only [Instr.cost]; omega
  | ldaIndY zp =>
    have := hp (wordAt s.mem (indyPointerAddrs s zp)) s.y
    simp only [Instr.cost]
    omega
  | _ => simp [Instr.cost]

end Sys2Proof.Machine
end

section
/-! PROOF. What a step can do, and that it keeps the invariant. -/

namespace Sys2Proof.Machine

/-- The four ways a step answers a next state: the transitions of R73 from CHECK, and none from IDLE. -/
inductive StepsTo (s : State) : State → Prop
  | rests (hc : s.control = .idle) : StepsTo s s
  | runs {i : Instr} {t : State} (hpos : s.control.positive) (hi : instrAt s = some i)
      (he : exec i s = .next t) : StepsTo s t
  | fails (hpos : s.control.positive) (hi : instrAt s = none) : StepsTo s (failAtPc s)
  | returns {req cyc : Int} (hc : s.control = .executing req cyc) (hle : cyc ≤ 0) :
      StepsTo s (finishExecute req cyc s)

theorem positive_iff {c : Control} :
    c.positive ↔ ∃ req cyc : Int, c = .executing req cyc ∧ 0 < cyc := by
  cases c <;> simp [Control.positive]

/-- A step is answered on a Ready core only, and is one of the four. -/
theorem step_eq_next_iff {s t : State} :
    step s = .next t ↔ s.status = .ready ∧ StepsTo s t := by
  constructor
  · intro h
    unfold step at h
    split at h
    · cases h
    next hr =>
    refine ⟨hr, ?_⟩
    split at h
    next hc =>
      cases h
      exact .rests hc
    next req cyc hc =>
    split at h
    next hlt =>
      have hpos : s.control.positive := positive_iff.2 ⟨req, cyc, hc, hlt⟩
      split at h
      next i hi => exact .runs hpos hi h
      next hi =>
        cases h
        exact .fails hpos hi
    next hle =>
      cases h
      exact .returns hc (Int.not_lt.1 hle)
  · rintro ⟨hr, hs⟩
    cases hs with
    | rests hc => simp [step, hr, hc]
    | runs hpos hi he =>
      obtain ⟨req, cyc, hc, hlt⟩ := positive_iff.1 hpos
      simp [step, hr, hc, hlt, hi, he]
    | fails hpos hi =>
      obtain ⟨req, cyc, hc, hlt⟩ := positive_iff.1 hpos
      simp [step, hr, hc, hlt, hi]
    | returns hc hle => simp [step, hr, hc, Int.not_lt.2 hle]

theorem instrAt_eq_none_iff {s : State} :
    instrAt s = none ↔ decodeOpcode s.params.opcodeMap (s.mem.read s.pc) = none := by
  simp [instrAt, decodeBytes]

/-- A charge of at most 6 from a positive counter leaves at least -5 (R77). -/
theorem Control.charge_legal {c : Control} (h : c.Legal) (hpos : c.positive) {n : Nat} (hn : n ≤ 6) :
    (c.charge n).Legal := by
  obtain ⟨req, cyc, rfl, hlt⟩ := positive_iff.1 hpos
  obtain ⟨hle, -⟩ := h
  exact ⟨by omega, .inr (by omega)⟩

theorem exec_inv {i : Instr} {s t : State} (h : s.Inv) (hpos : s.control.positive)
    (he : exec i s = .next t) : t.Inv := by
  obtain ⟨t', ht, hstatus, hresult, hparams, hcontrol⟩ := exec_frame i s
  cases ht.symm.trans he
  exact {
    mem_wf := exec_mem_wf he h.mem_wf
    params_wf := hparams ▸ h.params_wf
    control := hcontrol ▸ Control.charge_legal h.control hpos (cost_bounds i s).2
    result := by rw [hresult, hparams]; exact h.result
    unreset_idle := fun hu => by rw [hcontrol, h.unreset_idle (hstatus ▸ hu), Control.charge_idle] }

/-- The byte the failure records is no opcode (R116). -/
theorem failAtPc_inv {s : State} (h : s.Inv) (hi : instrAt s = none) : (failAtPc s).Inv where
  mem_wf := h.mem_wf
  params_wf := h.params_wf
  control := trivial
  result := by
    rintro _ ⟨⟩
    exact instrAt_eq_none_iff.1 hi
  unreset_idle := fun _ => rfl

/-- The count returned is not negative, since the counter never exceeds the budget (R77). -/
theorem finishExecute_inv {s : State} {req cyc : Int} (h : s.Inv)
    (hc : s.control = .executing req cyc) : (finishExecute req cyc s).Inv where
  mem_wf := h.mem_wf
  params_wf := h.params_wf
  control := trivial
  result := by
    rintro _ ⟨⟩
    have hlegal := h.control
    rw [hc] at hlegal
    exact Int.sub_nonneg.2 hlegal.1
  unreset_idle := fun _ => rfl

/-- Settles O41, by the four ways a step answers a next state. -/
theorem stepKeepsInvariant : Obligations.StepKeepsInvariant := by
  intro s t h hstep
  obtain ⟨-, hsteps⟩ := step_eq_next_iff.1 hstep
  cases hsteps with
  | rests => exact h
  | runs hpos _ he => exact exec_inv h hpos he
  | fails _ hi => exact failAtPc_inv h hi
  | returns hc _ => exact finishExecute_inv h hc

end Sys2Proof.Machine
end

section
/-! PROOF. A canonical memory is determined by what it reads as. -/

namespace Sys2Proof.Machine

theorem Memory.above_cons {j k : Nat} {v : Byte} {rest : Memory} (hj : j < k)
    (h : Memory.Above k rest) : Memory.Above j ((k, v) :: rest) :=
  List.forall_mem_cons.2 ⟨hj, fun c hc => hj.trans (h c hc)⟩

@[simp] theorem Memory.get_cons_self (k : Nat) (v : Byte) (rest : Memory) :
    Memory.get ((k, v) :: rest) k = v := by
  simp [Memory.get]

theorem Memory.get_cons_of_ne {j k : Nat} (h : j ≠ k) (v : Byte) (rest : Memory) :
    Memory.get ((k, v) :: rest) j = Memory.get rest j := by
  simp [Memory.get, h]

/-- A memory that reads as one whose first cell is at `k` does not start above `k`: it would read blank there. -/
theorem Memory.not_above_of_get_eq {k : Nat} {v : Byte} {rest n : Memory}
    (hm : Memory.wf ((k, v) :: rest))
    (h : ∀ j < 65536, Memory.get ((k, v) :: rest) j = Memory.get n j) : ¬ Memory.Above k n := by
  obtain ⟨-, hk, hv, -⟩ := Memory.wf_cons.1 hm
  intro habove
  have hread := h k hk
  rw [Memory.get_cons_self, Memory.get_of_above habove] at hread
  exact hv hread

/-- Canonical lists with the same byte at every key are equal: their first cells stand at one address, since the
lower of two would read blank in the other list. -/
theorem Memory.eq_of_get_eq {m n : Memory} (hm : Memory.wf m) (hn : Memory.wf n)
    (h : ∀ j < 65536, Memory.get m j = Memory.get n j) : m = n := by
  induction m generalizing n with
  | nil =>
    cases n with
    | nil => rfl
    | cons d rest' =>
      exact absurd (Memory.above_nil d.1) (Memory.not_above_of_get_eq hn fun j hj => (h j hj).symm)
  | cons c rest ih =>
    cases n with
    | nil => exact absurd (Memory.above_nil c.1) (Memory.not_above_of_get_eq hm h)
    | cons d rest' =>
      obtain ⟨k, v⟩ := c
      obtain ⟨k', v'⟩ := d
      obtain ⟨ha, hk, -, hr⟩ := Memory.wf_cons.1 hm
      obtain ⟨ha', -, -, hr'⟩ := Memory.wf_cons.1 hn
      obtain hlt | rfl | hgt := Nat.lt_trichotomy k k'
      · exact absurd (Memory.above_cons hlt ha') (Memory.not_above_of_get_eq hm h)
      · have hv : v = v' := by simpa using h k hk
        have hrest : ∀ j < 65536, Memory.get rest j = Memory.get rest' j := by
          intro j hj
          by_cases hjk : j = k
          · rw [hjk, Memory.get_of_above ha, Memory.get_of_above ha']
          · simpa [Memory.get_cons_of_ne hjk] using h j hj
        rw [hv, ih hr hr' hrest]
      · exact absurd (Memory.above_cons hgt ha)
          (Memory.not_above_of_get_eq hn fun j hj => (h j hj).symm)

/-- Settles O7, by induction on the list: every key below 65536 is the number of an address. -/
theorem memoryExtensionality : Obligations.MemoryExtensionality := by
  intro m n hm hn h
  refine Memory.eq_of_get_eq hm hn fun j hj => ?_
  simpa [Memory.read, Nat.mod_eq_of_lt hj] using h (BitVec.ofNat 16 j)

end Sys2Proof.Machine
end

section
/-! PROOF. Which state an instruction and a step write, and that they read no flag and no accumulator. -/

namespace Sys2Proof.Machine

/-! ### Instructions -/

/-- The byte a load loads, and its cost, depend on no flag and not on A. -/
theorem exec_load_withFlagsAndA {i : Instr} (hi : i.opcode ≠ .jsr) (s : State) :
    ∃ v : Byte, ∀ (f : Flags) (a : Byte),
      exec i { s with flags := f, a := a } =
        .next (State.loaded { s with flags := f, a := a } i.opcode.length (i.cost s) v) := by
  cases i with
  | ldaImm imm8 => exact ⟨imm8, fun _ _ => exec_ldaImm _ _⟩
  | ldaZp zp => exact ⟨s.mem.read (zext16 zp), fun _ _ => exec_ldaZp _ _⟩
  | ldaZpX zp => exact ⟨s.mem.read (zext16 (zp + s.x)), fun _ _ => exec_ldaZpX _ _⟩
  | ldaAbs a => exact ⟨s.mem.read a, fun _ _ => exec_ldaAbs _ _⟩
  | ldaAbsX base => exact ⟨s.mem.read (base + zext16 s.x), fun _ _ => exec_ldaAbsX _ _⟩
  | ldaAbsY base => exact ⟨s.mem.read (base + zext16 s.y), fun _ _ => exec_ldaAbsY _ _⟩
  | ldaIndX zp =>
    exact ⟨s.mem.read (wordAt s.mem (indxPointerAddrs s zp)), fun _ _ => exec_ldaIndX _ _⟩
  | ldaIndY zp =>
    exact ⟨s.mem.read (wordAt s.mem (indyPointerAddrs s zp) + zext16 s.y),
      fun _ _ => exec_ldaIndY _ _⟩
  | jsr _ => exact absurd rfl hi

/-- JSR neither reads nor writes a flag or A. -/
theorem exec_jsr_withFlagsAndA {s t : State} {target : Word} (he : exec (.jsr target) s = .next t)
    (f : Flags) (a : Byte) :
    exec (.jsr target) { s with flags := f, a := a } = .next { t with flags := f, a := a } := by
  cases (exec_jsr s target).symm.trans he
  exact exec_jsr _ target

/-- The state after an instruction: that of a load of some byte, or, after JSR, one that differs in PC, SP, memory
and the counter alone. -/
theorem exec_eq_next {i : Instr} {s t : State} (he : exec i s = .next t) :
    (i.opcode ≠ .jsr ∧ ∃ v : Byte, t = s.loaded i.opcode.length (i.cost s) v) ∨
    ∃ target : Word, i = .jsr target ∧
      t = { s with pc := target, sp := t.sp, mem := t.mem, control := t.control } := by
  obtain ⟨hi, v, hv⟩ | ⟨target, rfl⟩ := exec_cases i s
  · cases hv.symm.trans he
    exact .inl ⟨hi, v, rfl⟩
  · cases (exec_jsr s target).symm.trans he
    exact .inr ⟨target, rfl, rfl⟩

/-- Settles O31, by the two kinds of instruction: a load and JSR. -/
theorem flagRule : Obligations.FlagRule := by
  intro s i
  obtain ⟨hi, -⟩ | ⟨target, rfl⟩ := exec_cases i s
  · obtain ⟨v, hv⟩ := exec_load_withFlagsAndA hi s
    refine ⟨_, hv s.flags s.a, fun f => ?_⟩
    rw [if_neg hi]
    exact hv f s.a
  · refine ⟨_, exec_jsr s target, fun f => ?_⟩
    have hi : (Instr.jsr target).opcode = .jsr := rfl
    rw [if_pos hi]
    exact exec_jsr_withFlagsAndA (exec_jsr s target) f s.a

/-! ### Steps -/

/-- Settles O37, by the four ways a step answers a next state. -/
theorem stepKeepsInertState : Obligations.StepKeepsInertState := by
  intro s t hstep
  obtain ⟨-, hsteps⟩ := step_eq_next_iff.1 hstep
  cases hsteps with
  | rests => simp
  | runs _ _ he =>
    obtain ⟨-, v, rfl⟩ | ⟨target, -, ht⟩ := exec_eq_next he
    · simp [State.loaded]
    · rw [ht]
      simp
  | fails => simp [failAtPc_eq]
  | returns => simp

theorem length_eq_two_or_three (k : Opcode) : k.length = 2 ∨ k.length = 3 := by
  unfold Opcode.length
  cases k.format
  · exact .inl rfl
  · exact .inr rfl

/-- Settles O38: the clauses about what changed are decided by the instruction at PC, and a load's length is 2
or 3. -/
theorem stepChangesByKind : Obligations.StepChangesByKind := by
  intro s t hstep
  obtain ⟨-, hsteps⟩ := step_eq_next_iff.1 hstep
  cases hsteps with
  | rests => simp
  | @runs i _ _ hi he =>
    obtain ⟨hne, v, rfl⟩ | ⟨target, rfl, ht⟩ := exec_eq_next he
    · refine ⟨by simp [State.loaded], fun _ => ⟨i, hi, hne⟩, ?_⟩
      obtain hlen | hlen := length_eq_two_or_three i.opcode <;> simp [State.loaded, hlen]
    · refine ⟨fun _ => ⟨target, hi⟩, ?_, ?_⟩
      · rw [ht]
        simp
      · rw [ht]
        exact .inr (.inr (.inr (.inr hi)))
  | fails => simp [failAtPc_eq]
  | returns => simp

/-- Settles O39: a load is the one step that writes flags or A, and it writes the same values whatever stood
there. -/
theorem stepReadsNoFlagAndNoAccumulator : Obligations.StepReadsNoFlagAndNoAccumulator := by
  intro s t f a hstep
  obtain ⟨hready, hsteps⟩ := step_eq_next_iff.1 hstep
  have step_of {t' : State} (h : StepsTo { s with flags := f, a := a } t') :
      step { s with flags := f, a := a } = .next t' := step_eq_next_iff.2 ⟨hready, h⟩
  cases hsteps with
  | rests hc => exact .inl ⟨step_of (.rests hc), rfl, rfl⟩
  | @runs i _ hpos hi he =>
    obtain ⟨hne, -⟩ | ⟨target, rfl, ht⟩ := exec_eq_next he
    · obtain ⟨v, hv⟩ := exec_load_withFlagsAndA hne s
      cases (hv s.flags s.a).symm.trans he
      exact .inr (step_of (.runs hpos hi (hv f a)))
    · exact .inl ⟨step_of (.runs hpos hi (exec_jsr_withFlagsAndA he f a)), by rw [ht], by rw [ht]⟩
  | fails hpos hi => exact .inl ⟨step_of (.fails hpos hi), rfl, rfl⟩
  | returns hc hle => exact .inl ⟨step_of (.returns hc hle), rfl, rfl⟩

/-- Settles O40: only a step that runs an instruction stays inside the call, and it is charged the instruction's
cost. -/
theorem counterFallsEachStep : Obligations.CounterFallsEachStep := by
  intro s t req cyc req' cyc' hstep hs ht
  obtain ⟨-, hsteps⟩ := step_eq_next_iff.1 hstep
  cases hsteps with
  | rests hc => cases hc.symm.trans hs
  | @runs i _ hpos _ he =>
    obtain ⟨t', ht', -, -, -, hcontrol⟩ := exec_frame i s
    cases ht'.symm.trans he
    rw [hs, ht, Control.charge_executing] at hcontrol
    obtain ⟨rfl, rfl⟩ := Control.executing.inj hcontrol
    have hcyc : 0 < cyc := by simpa [hs, Control.positive] using hpos
    obtain ⟨hlo, hhi⟩ := cost_bounds i s
    omega
  | fails => cases ht
  | returns => cases ht

end Sys2Proof.Machine
end

section
/-! PROOF. The state after reset. -/

namespace Sys2Proof.Machine

/-- Settles O42: memory is empty, the default map is injective, the core is idle and no result is recorded. -/
theorem resetMeetsInvariant : Obligations.ResetMeetsInvariant where
  mem_wf := Memory.init_wf
  params_wf := by decide
  control := trivial
  result := nofun
  unreset_idle := fun _ => rfl

/-- Settles O44: each value is the one `State.resetWith` gives, and a memory just initialised reads 0x00. -/
theorem resetValues : Obligations.ResetValues :=
  ⟨rfl, rfl, rfl, rfl, rfl, rfl, Memory.read_init, rfl, rfl⟩

end Sys2Proof.Machine
end

section
/-! PROOF. The charged memory primitives (20_memory.md R41 to R45): what each returns, changes and leaves. -/

namespace Sys2Proof.Machine

/-- All that `FetchByte` does. -/
theorem fetchByte_eq (s : State) :
    fetchByte s = (s.mem.read s.pc, { s with pc := s.pc + 1, control := s.control.charge 1 }) := rfl

/-- All that `FetchWord` does. -/
theorem fetchWord_eq (s : State) :
    fetchWord s =
      (wordAt s.mem (s.pc, s.pc + 1), { s with pc := s.pc + 2, control := s.control.charge 2 }) := rfl

/-- The inference R42 marks: `FetchWord` is two `FetchByte`s, low byte first. -/
theorem fetchWord_eq_fetchByte_fetchByte (s : State) :
    fetchWord s =
      (joinBytes (fetchByte (fetchByte s).2).1 (fetchByte s).1, (fetchByte (fetchByte s).2).2) := by
  have hpc : s.pc + 1 + 1 = s.pc + 2 := BitVec.add_assoc s.pc 1 1
  simp only [fetchWord_eq, fetchByte_eq, wordAt, hpc, Control.charge_charge, Nat.reduceAdd]

/-- `WriteWord` changes memory and the counter alone. -/
theorem writeWord_eq (s : State) (a v : Word) :
    writeWord a v s =
      { s with mem := (writeWord a v s).mem, control := s.control.charge 2 } := rfl

/-- A fetch reads the memory that a write changes: nothing is cached or prefetched between them (R54). -/
theorem fetchByte_writeMem_setPc {s : State} (h : Memory.wf s.mem) (a : Word) (v : Byte) :
    (fetchByte ((s.writeMem a v).setPc a)).1 = v := by
  simp [fetchByte_eq, Memory.read_write h]

/-- Settles O11: the state is `writeWord_eq`, the canonical form `writeWord_wf`, and each read the matching case of
`read_writeWord`. -/
theorem writeWordStoresLittleEndian : Obligations.WriteWordStoresLittleEndian := by
  intro s a v h
  refine ⟨_, writeWord_eq s a v, writeWord_wf h a v, ?low, ?high, ?others⟩
  case low =>
    have hne : a ≠ a + 1 := by bv_omega
    rw [read_writeWord h, if_neg hne, if_pos rfl, lowByte]
  case high => rw [read_writeWord h, if_pos rfl, highByte]
  case others =>
    intro b hlow hhigh
    rw [read_writeWord h, if_neg hhigh, if_neg hlow]

/-- Settles O8, by the equation of `FetchByte`; the wrap is of 16-bit addition. -/
theorem fetchBytePrimitive : Obligations.FetchBytePrimitive := fun s =>
  ⟨fetchByte_eq s, by decide, Control.charge_executing 1⟩

/-- Settles O9, by the equation of `FetchWord` and its two-byte form. -/
theorem fetchWordPrimitive : Obligations.FetchWordPrimitive := fun s =>
  ⟨fetchWord_eq s, fetchWord_eq_fetchByte_fetchByte s⟩

/-- Settles O10: `ReadByte` is its definition, and the two reads of `ReadWord` charge 2 together. -/
theorem readPrimitives : Obligations.ReadPrimitives := fun s a =>
  ⟨rfl, readWord_eq s a⟩

/-- Settles O13, by the read after the write. -/
theorem fetchSeesWrittenByte : Obligations.FetchSeesWrittenByte := fun _ a v h =>
  fetchByte_writeMem_setPc h a v

end Sys2Proof.Machine
end

section
/-! PROOF. Decoding and encoding (30_encoding.md): each undoes the other, under any injective `OPCODE_MAP`. -/

namespace Sys2Proof.Machine

/-! ### The opcode byte -/

/-- The nine opcodes in the order of the table of R60. -/
def Opcode.all : List Opcode :=
  [.lda .imm, .lda .zp, .lda .zpx, .lda .abs, .lda .absx, .lda .absy, .lda .indx, .lda .indy, .jsr]

theorem Opcode.mem_all (k : Opcode) : k ∈ Opcode.all := by
  rcases k with ⟨_ | _⟩ | _ <;> decide

theorem Opcode.nodup_all : Opcode.all.Nodup := by decide

theorem bytes_eq_map_byteOf (m : OpcodeMap) : m.bytes = Opcode.all.map m.byteOf := rfl

theorem mem_bytes_iff {m : OpcodeMap} {op : Byte} : op ∈ m.bytes ↔ ∃ k : Opcode, m.byteOf k = op := by
  simp [bytes_eq_map_byteOf, Opcode.mem_all]

theorem wellFormed_iff_injective {m : OpcodeMap} : m.WellFormed ↔ Function.Injective m.byteOf := by
  rw [OpcodeMap.WellFormed, bytes_eq_map_byteOf, List.nodup_map_iff_inj_on Opcode.nodup_all]
  simp [Opcode.mem_all, Function.Injective]

theorem find_byteOf_cons (m : OpcodeMap) (op : Byte) (k : Opcode) (ks : List Opcode) :
    ((k :: ks).find? fun k' => op = m.byteOf k') =
      if op = m.byteOf k then some k else ks.find? fun k' => op = m.byteOf k' := by
  by_cases h : op = m.byteOf k <;> simp [h]

/-- `Decode` of R62 tries the opcodes in the order of the table and answers the first that has the byte. -/
theorem decodeOpcode_eq_find (m : OpcodeMap) (op : Byte) :
    decodeOpcode m op = Opcode.all.find? fun k => op = m.byteOf k := by
  simp only [Opcode.all, find_byteOf_cons, List.find?_nil]
  rfl

theorem byteOf_of_decodeOpcode {m : OpcodeMap} {op : Byte} {k : Opcode}
    (h : decodeOpcode m op = some k) : m.byteOf k = op := by
  rw [decodeOpcode_eq_find] at h
  simpa [eq_comm] using List.find?_some h

theorem decodeOpcode_eq_none_iff {m : OpcodeMap} {op : Byte} :
    decodeOpcode m op = none ↔ ∀ k : Opcode, m.byteOf k ≠ op := by
  simp [decodeOpcode_eq_find, Opcode.mem_all, eq_comm (a := op)]

theorem decodeOpcode_byteOf {m : OpcodeMap} (hm : m.WellFormed) (k : Opcode) :
    decodeOpcode m (m.byteOf k) = some k := by
  cases h : decodeOpcode m (m.byteOf k) with
  | none => exact absurd rfl (decodeOpcode_eq_none_iff.1 h k)
  | some k' => rw [wellFormed_iff_injective.1 hm (byteOf_of_decodeOpcode h)]

/-- Settles O3: the first match of `Decode` is the only one when the map is injective. -/
theorem decodeInvertsOpcodeMap : Obligations.DecodeInvertsOpcodeMap := fun _ =>
  ⟨wellFormed_iff_injective,
    fun hm => ⟨decodeOpcode_byteOf hm, fun _ => decodeOpcode_eq_none_iff.2⟩⟩

/-! ### The operand bytes -/

@[simp] theorem opcode_assemble (k : Opcode) (b1 b2 : Byte) : (k.assemble b1 b2).opcode = k := by
  rcases k with ⟨_ | _⟩ | _ <;> rfl

theorem lowByte_joinBytes (hi lo : Byte) : lowByte (joinBytes hi lo) = lo :=
  BitVec.extractLsb'_append_eq_right

theorem highByte_joinBytes (hi lo : Byte) : highByte (joinBytes hi lo) = hi :=
  BitVec.extractLsb'_append_eq_left

theorem operandBytes_assemble_f2 {k : Opcode} (hk : k.format = .f2) (b1 b2 : Byte) :
    (k.assemble b1 b2).operandBytes = [b1] := by
  rcases k with ⟨_ | _⟩ | _ <;> cases hk <;> rfl

theorem operandBytes_assemble_f3 {k : Opcode} (hk : k.format = .f3) (b1 b2 : Byte) :
    (k.assemble b1 b2).operandBytes = [b1, b2] := by
  rcases k with ⟨_ | _⟩ | _ <;> cases hk <;>
    simp [Opcode.assemble, Instr.operandBytes, lowByte_joinBytes, highByte_joinBytes]

/-- Every instruction is assembled from its own operand bytes (R58). -/
theorem eq_assemble_operandBytes (i : Instr) :
    (i.opcode.format = .f2 ∧ ∃ b1, i.operandBytes = [b1] ∧ i.opcode.assemble b1 0 = i) ∨
    (i.opcode.format = .f3 ∧ ∃ b1 b2, i.operandBytes = [b1, b2] ∧ i.opcode.assemble b1 b2 = i) := by
  cases i with
  | ldaImm v | ldaZp v | ldaZpX v | ldaIndX v | ldaIndY v => exact .inl ⟨rfl, v, rfl, rfl⟩
  | ldaAbs w | ldaAbsX w | ldaAbsY w | jsr w =>
    exact .inr ⟨rfl, _, _, rfl, by simp [Opcode.assemble, Instr.opcode, joinBytes_highByte_lowByte]⟩

theorem length_of_format_f2 {k : Opcode} (hk : k.format = .f2) : k.length = 2 := by
  simp [Opcode.length, hk]

theorem length_of_format_f3 {k : Opcode} (hk : k.format = .f3) : k.length = 3 := by
  simp [Opcode.length, hk]

theorem length_operandBytes (i : Instr) : i.operandBytes.length + 1 = i.opcode.length := by
  cases i <;> rfl

/-! ### Byte lists -/

/-- What `decode` accepts (R57, R62): a byte that selects the instruction's opcode, then its operand bytes.
Both directions of the round trip follow from it. -/
theorem decode_cons_eq_ok_iff {m : OpcodeMap} {op : Byte} {bs rest : List Byte} {i : Instr} :
    decode m (op :: bs) = .ok (i, rest) ↔
      decodeOpcode m op = some i.opcode ∧ bs = i.operandBytes ++ rest := by
  constructor
  · intro h
    cases hk : decodeOpcode m op with
    | none => simp [decode, hk] at h
    | some k =>
      simp only [decode, hk] at h
      split at h
      next hf =>
        cases h
        simp [operandBytes_assemble_f2 hf]
      next hf =>
        cases h
        simp [operandBytes_assemble_f3 hf]
      next => cases h
  · rintro ⟨hk, rfl⟩
    obtain ⟨hf, b1, hb, hi⟩ | ⟨hf, b1, b2, hb, hi⟩ := eq_assemble_operandBytes i <;>
      simpa [decode, hk, hf, hb] using hi

/-- Settles O1: the opcode byte selects its opcode, and the operand bytes follow it. -/
theorem decodeOfEncode : Obligations.DecodeOfEncode := fun _ hm i _ =>
  decode_cons_eq_ok_iff.2 ⟨decodeOpcode_byteOf hm i.opcode, rfl⟩

/-- Settles O2: an opcode that `Decode` answers has the byte that was read. -/
theorem encodeOfDecode : Obligations.EncodeOfDecode := by
  intro m bs i rest h
  cases bs with
  | nil => cases h
  | cons op bs =>
    obtain ⟨hop, rfl⟩ := decode_cons_eq_ok_iff.1 h
    rw [encode, byteOf_of_decodeOpcode hop, List.cons_append]

/-- Settles O6: the bytes taken are the opcode byte and the operand bytes. -/
theorem lengthFromOpcode : Obligations.LengthFromOpcode := by
  intro m op rest tail i h
  obtain ⟨hop, rfl⟩ := decode_cons_eq_ok_iff.1 h
  have htaken := length_operandBytes i
  refine ⟨i.opcode, hop, ?_, length_of_format_f2, length_of_format_f3⟩
  rw [List.length_append]
  omega

/-! ### The default map -/

/-- Settles O4: each of the nine words is the encoding of its instruction. -/
theorem writtenOutWordsDecode : Obligations.WrittenOutWordsDecode := by
  have decode_of (i : Instr) := decodeOfEncode defaultOpcodeMap (by decide) i []
  exact ⟨decode_of (.ldaImm 0x84), decode_of (.ldaZp 0x42), decode_of (.ldaZpX 0x42),
    decode_of (.ldaAbs 0x4480), decode_of (.ldaAbsX 0x4480), decode_of (.ldaAbsY 0x4480),
    decode_of (.ldaIndX 0x02), decode_of (.ldaIndY 0x02), decode_of (.jsr 0x4242)⟩

theorem decodeOpcode_isNone_eq (m : OpcodeMap) (op : Byte) :
    (decodeOpcode m op).isNone = decide (op ∉ m.bytes) := by
  rw [Bool.eq_iff_iff]
  simp [decodeOpcode_eq_none_iff, mem_bytes_iff]

/-- The byte values that `Decode` answers are the nine of the map. -/
theorem filter_mem_bytes_perm {m : OpcodeMap} (hm : m.WellFormed) :
    ((List.range 256).filter fun n => BitVec.ofNat 8 n ∈ m.bytes).Perm (m.bytes.map BitVec.toNat) := by
  have hnodup : (m.bytes.map BitVec.toNat).Nodup := hm.map fun _ _ => BitVec.eq_of_toNat_eq
  rw [List.perm_ext_iff_of_nodup (List.nodup_range.filter _) hnodup]
  intro n
  simp only [List.mem_filter, List.mem_range, decide_eq_true_eq, List.mem_map]
  constructor
  · rintro ⟨hn, hmem⟩
    exact ⟨_, hmem, by simpa using hn⟩
  · rintro ⟨op, hmem, rfl⟩
    exact ⟨op.isLt, by simpa using hmem⟩

/-- Under any injective map, all but nine byte values are unknown opcodes (R63). -/
theorem length_filter_isNone {m : OpcodeMap} (hm : m.WellFormed) :
    ((List.range 256).filter fun n => (decodeOpcode m (BitVec.ofNat 8 n)).isNone).length = 247 := by
  have hknown := (filter_mem_bytes_perm hm).length_eq
  have hsplit := List.length_eq_length_filter_add (l := List.range 256)
    (fun n => BitVec.ofNat 8 n ∈ m.bytes)
  have hnine : (m.bytes.map BitVec.toNat).length = 9 := rfl
  simp only [decodeOpcode_isNone_eq, decide_not]
  rw [List.length_range] at hsplit
  omega

/-- Settles O5: 256 values less the nine of the map, which are distinct. -/
theorem unknownOpcodeCount : Obligations.UnknownOpcodeCount :=
  ⟨length_filter_isNone (by decide), by decide⟩

end Sys2Proof.Machine
end

section
/-! PROOF. The loop of `Execute`: what it keeps, that it ends, and what it leaves (40_execute.md R73 to R78). -/

namespace Sys2Proof.Machine

/-! ### One step -/

/-- A Ready core is never stuck: every step of it is answered (R78). -/
theorem exists_step_eq_next {s : State} (hr : s.status = .ready) : ∃ t : State, step s = .next t := by
  suffices h : ∃ t, StepsTo s t from h.imp fun _ ht => step_eq_next_iff.2 ⟨hr, ht⟩
  cases hc : s.control with
  | idle => exact ⟨s, .rests hc⟩
  | executing req cyc =>
    obtain hle | hlt := le_or_gt cyc 0
    · exact ⟨_, .returns hc hle⟩
    · have hpos : s.control.positive := positive_iff.2 ⟨req, cyc, hc, hlt⟩
      cases hi : instrAt s with
      | none => exact ⟨_, .fails hpos hi⟩
      | some i =>
        obtain ⟨t, ht, -⟩ := exec_frame i s
        exact ⟨t, .runs hpos hi ht⟩

theorem step_status {s t : State} (h : step s = .next t) : t.status = s.status := by
  obtain ⟨-, -, -, -, -, -, -, hstatus, -⟩ := stepKeepsInertState s t h
  exact hstatus

/-! ### The loop -/

theorem runLoop_of_idle {s : State} (hc : s.control = .idle) (fuel : Nat) : runLoop fuel s = s := by
  cases fuel with
  | zero => rfl
  | succ k => simp [runLoop, hc]

theorem runLoop_succ {s t : State} {req cyc : Int} (hc : s.control = .executing req cyc)
    (hstep : step s = .next t) (k : Nat) : runLoop (k + 1) s = runLoop k t := by
  simp [runLoop, hc, hstep]

/-- What every step keeps, a whole call keeps. -/
theorem runLoop_keeps {P : State → Prop} (hkeep : ∀ s t : State, P s → step s = .next t → P t)
    (fuel : Nat) {s : State} (h : P s) : P (runLoop fuel s) := by
  induction fuel generalizing s with
  | zero => exact h
  | succ k ih =>
    unfold runLoop
    split
    · exact h
    split
    next t hstep => exact ih (hkeep s t h hstep)
    · exact h
    · exact h

/-- The counter falls at each step that stays in the call, so a pass more than its value ends the call (R78). -/
theorem runLoop_control_eq_idle {fuel : Nat} {s : State} {req cyc : Int} (hr : s.status = .ready)
    (hc : s.control = .executing req cyc) (hfuel : cyc.toNat < fuel) :
    (runLoop fuel s).control = .idle := by
  induction fuel generalizing s req cyc with
  | zero => exact absurd hfuel (Nat.not_lt_zero _)
  | succ k ih =>
    obtain ⟨t, hstep⟩ := exists_step_eq_next hr
    rw [runLoop_succ hc hstep]
    cases ht : t.control with
    | idle => rwa [runLoop_of_idle ht]
    | executing req' cyc' =>
      obtain ⟨hlt, -, hfall, -⟩ := counterFallsEachStep s t req cyc req' cyc' hstep hc ht
      exact ih ((step_status hstep).trans hr) ht (by omega)

/-! ### A whole call -/

theorem execute_status (n : Int) (s : State) : (execute n s).status = s.status :=
  runLoop_keeps (P := fun t => t.status = s.status)
    (fun _ _ h hstep => (step_status hstep).trans h) _ rfl

theorem execute_control {s : State} (hr : s.status = .ready) (n : Int) :
    (execute n s).control = .idle :=
  runLoop_control_eq_idle (s := beginExecute n s) hr rfl (Nat.lt_succ_self _)

theorem beginExecute_inv {s : State} (h : s.Inv) (hr : s.status = .ready) (n : Int) :
    (beginExecute n s).Inv where
  mem_wf := h.mem_wf
  params_wf := h.params_wf
  control := ⟨le_rfl, .inl rfl⟩
  result := nofun
  unreset_idle := fun hu => absurd (hr.symm.trans hu) nofun

theorem execute_inv {s : State} (h : s.Inv) (hr : s.status = .ready) (n : Int) : (execute n s).Inv :=
  runLoop_keeps stepKeepsInvariant _ (beginExecute_inv h hr n)

/-- With no budget the one pass of the loop returns (R75). -/
theorem execute_of_nonpos {s : State} {n : Int} (hr : s.status = .ready) (hn : n ≤ 0) :
    execute n s = finishExecute n n (beginExecute n s) := by
  have hstep : step (beginExecute n s) = .next (finishExecute n n (beginExecute n s)) :=
    step_eq_next_iff.2 ⟨hr, .returns rfl hn⟩
  rw [execute, runLoop_succ rfl hstep, runLoop_of_idle rfl]

/-- The states of a call `Execute(n)`, from its begin on: still running, with the counter at the budget or not
below -5, or ended in one of the two ways of R79. -/
inductive InCall (n : Int) (s : State) : Prop
  | running {cyc : Int} (hc : s.control = .executing n cyc) (hlow : cyc = n ∨ -5 ≤ cyc)
  | failed {reason : Fault} (hc : s.control = .idle) (hres : s.result = some (.fail reason))
  | returned {cyc : Int} (hc : s.control = .idle) (hres : s.result = some (.ok (n - cyc)))
      (hle : cyc ≤ 0) (hlow : cyc = n ∨ -5 ≤ cyc)

theorem step_eq_self_of_idle {s t : State} (hc : s.control = .idle) (hstep : step s = .next t) :
    t = s := by
  obtain ⟨hr, -⟩ := step_eq_next_iff.1 hstep
  cases (step_eq_next_iff.2 ⟨hr, .rests hc⟩).symm.trans hstep
  rfl

/-- A pass is charged at most 6 and starts from a positive counter, so it leaves at least -5 (R77). -/
theorem inCall_step {n : Int} (s t : State) (h : InCall n s) (hstep : step s = .next t) :
    InCall n t := by
  cases h with
  | failed hc hres =>
    cases step_eq_self_of_idle hc hstep
    exact .failed hc hres
  | returned hc hres hle hlow =>
    cases step_eq_self_of_idle hc hstep
    exact .returned hc hres hle hlow
  | running hc hlow =>
    obtain ⟨-, hsteps⟩ := step_eq_next_iff.1 hstep
    cases hsteps with
    | rests hidle => cases hidle.symm.trans hc
    | @runs i _ _ _ he =>
      obtain ⟨t', ht', -, -, -, hcontrol⟩ := exec_frame i s
      cases ht'.symm.trans he
      rw [hc, Control.charge_executing] at hcontrol
      obtain ⟨hlt, -, -, hcharge⟩ := counterFallsEachStep s t _ _ _ _ hstep hc hcontrol
      exact .running hcontrol (.inr (by omega))
    | fails => exact .failed rfl rfl
    | returns hc' hle =>
      cases hc.symm.trans hc'
      exact .returned rfl rfl hle hlow

theorem execute_inCall (n : Int) (s : State) : InCall n (execute n s) :=
  runLoop_keeps inCall_step _ (.running rfl (.inl rfl))

end Sys2Proof.Machine
end

section
/-! PROOF. The host's operations (40_execute.md R71 to R86): what each answers, and that each keeps the invariant. -/

namespace Sys2Proof.Machine

/-! ### Which operations are carried out -/

theorem host_of_ready {s : State} (hr : s.status = .ready) (hc : s.control = .idle) (op : HostOp) :
    host op s = hostReady op s := by
  simp [host, hr, hc]

theorem host_of_executing {s : State} {req cyc : Int} (hc : s.control = .executing req cyc)
    (op : HostOp) : host op s = .refused .busy := by
  simp [host, hc]

theorem host_reset_of_idle {s : State} (hc : s.control = .idle) :
    host .reset s = .reply .done (resetOp s) := by
  cases hs : s.status <;> simp [host, hc, hs, hostReady]

theorem host_of_unreset {s : State} (hu : s.status = .unreset) (hc : s.control = .idle) {op : HostOp}
    (hop : op ≠ .reset) : host op s = .refused .unreset := by
  cases op with
  | reset => exact absurd rfl hop
  | _ => simp [host, hu, hc]

theorem exists_hostReady_eq_reply (op : HostOp) (s : State) :
    ∃ (r : HostReply) (t : State), hostReady op s = .reply r t := by
  cases op <;> exact ⟨_, _, rfl⟩

theorem host_execute {s : State} (hr : s.status = .ready) (hc : s.control = .idle) (n : Int) :
    host (.execute n) s = .reply (.result (execute n s).result) (execute n s) :=
  host_of_ready hr hc _

/-! ### Registers and flags -/

/-- A register write changes byte registers alone. -/
theorem setByteReg_eq (s : State) (r : ByteReg) (v : Byte) :
    s.setByteReg r v =
      { s with
        a := (s.setByteReg r v).a
        x := (s.setByteReg r v).x
        y := (s.setByteReg r v).y
        sp := (s.setByteReg r v).sp } := by
  cases r <;> rfl

theorem byteReg_setByteReg (s : State) (r r' : ByteReg) (v : Byte) :
    (s.setByteReg r v).byteReg r' = if r' = r then v else s.byteReg r' := by
  cases r <;> cases r' <;> rfl

theorem Flags.get_set (fl : Flags) (f f' : FlagReg) (b : Bool) :
    (fl.set f b).get f' = if f' = f then b else fl.get f' := by
  cases f <;> cases f' <;> rfl

@[simp] theorem setByteReg_status (s : State) (r : ByteReg) (v : Byte) :
    (s.setByteReg r v).status = s.status := by rw [setByteReg_eq]

@[simp] theorem setByteReg_control (s : State) (r : ByteReg) (v : Byte) :
    (s.setByteReg r v).control = s.control := by rw [setByteReg_eq]

/-! ### The invariant -/

/-- The invariant speaks of no register and no flag: registers, flags and bytes of memory may take any value. -/
theorem State.Inv.withRegistersAndMemory {s : State} (h : s.Inv) {m : Memory} (hm : Memory.wf m) (pc : Word)
    (sp a x y : Byte) (fl : Flags) :
    State.Inv { s with pc := pc, sp := sp, a := a, x := x, y := y, flags := fl, mem := m } where
  mem_wf := hm
  params_wf := h.params_wf
  control := h.control
  result := h.result
  unreset_idle := h.unreset_idle

theorem resetWith_inv {p : Params} (hp : p.WellFormed) : (State.resetWith p).Inv where
  mem_wf := Memory.init_wf
  params_wf := hp
  control := trivial
  result := nofun
  unreset_idle := fun _ => rfl

theorem neverReset_inv {p : Params} (hp : p.WellFormed) : (State.neverReset p).Inv where
  mem_wf := Memory.init_wf
  params_wf := hp
  control := trivial
  result := nofun
  unreset_idle := fun _ => rfl

/-- A Ready core between operations keeps the invariant and is between operations again. -/
theorem hostReady_keeps_inv_and_idle {s : State} (h : s.Inv) (hr : s.status = .ready) (hc : s.control = .idle)
    (op : HostOp) :
    ((hostReady op s).after s).Inv ∧ ((hostReady op s).after s).control = .idle := by
  cases op with
  | reset => exact ⟨resetWith_inv h.params_wf, rfl⟩
  | execute n => exact ⟨execute_inv h hr n, execute_control hr n⟩
  | readMem | readByteReg | readPc | readFlag => exact ⟨h, hc⟩
  | writeMem a v => exact ⟨h.withRegistersAndMemory (Memory.write_wf h.mem_wf a v) .., hc⟩
  | writeByteReg r v =>
    refine ⟨?_, (setByteReg_control s r v).trans hc⟩
    simp only [hostReady, HostOutcome.after]
    rw [setByteReg_eq]
    exact h.withRegistersAndMemory h.mem_wf ..
  | writePc | writeFlag => exact ⟨h.withRegistersAndMemory h.mem_wf .., hc⟩

/-- Settles O56: an operation is refused and changes nothing, is Reset, or is one of a Ready core. -/
theorem hostOperationKeepsInvariant : Obligations.HostOperationKeepsInvariant := by
  intro s op h hc
  cases hs : s.status with
  | ready =>
    rw [host_of_ready hs hc]
    exact hostReady_keeps_inv_and_idle h hs hc op
  | unreset =>
    by_cases hop : op = .reset
    · rw [hop, host_reset_of_idle hc]
      exact ⟨resetWith_inv h.params_wf, rfl⟩
    · rw [host_of_unreset hs hc hop]
      exact ⟨h, hc⟩

/-- A whole session keeps what each operation keeps. -/
theorem session_keeps_inv_and_idle (ops : List HostOp) {s : State} (h : s.Inv) (hc : s.control = .idle) :
    (session ops s).Inv ∧ (session ops s).control = .idle := by
  induction ops generalizing s with
  | nil => exact ⟨h, hc⟩
  | cons op rest ih =>
    obtain ⟨hinv, hidle⟩ := hostOperationKeepsInvariant s op h hc
    exact ih hinv hidle

/-- Settles O55, by induction over the session from the core never reset. -/
theorem sessionKeepsInvariant : Obligations.SessionKeepsInvariant := fun _ ops hp =>
  session_keeps_inv_and_idle ops (neverReset_inv hp) rfl

/-! ### `Execute` -/

/-- Settles O51: the loop ends by its fuel, and a call that ended has failed or returned. -/
theorem executeTerminates : Obligations.ExecuteTerminates := by
  intro s n hr hc
  have hidle : (execute n s).control = .idle := execute_control hr n
  have hstatus : (execute n s).status = .ready := (execute_status n s).trans hr
  suffices hres : ∃ r : ExecResult, (execute n s).result = some r by
    obtain ⟨r, hres⟩ := hres
    exact ⟨r, execute n s, hres ▸ host_execute hr hc n, hidle, hstatus, hres⟩
  cases execute_inCall n s with
  | running hrun => cases hidle.symm.trans hrun
  | failed _ hres => exact ⟨_, hres⟩
  | returned _ hres => exact ⟨_, hres⟩

/-- Settles O52: the counter a call returns with is at most 0, and it is at least -5, since a positive budget
cannot be left untouched. -/
theorem budgetOverrunBound : Obligations.BudgetOverrunBound := by
  intro s t n used hr hc hn hhost
  rw [host_execute hr hc] at hhost
  injection hhost with hreply
  injection hreply with hok
  cases execute_inCall n s with
  | running hrun => cases (execute_control hr n).symm.trans hrun
  | failed _ hres => cases hres.symm.trans hok
  | returned _ hres hle hlow =>
    cases hres.symm.trans hok
    omega

/-- Settles O50, by the one pass that a call with no budget makes. -/
theorem noBudgetRunsNothing : Obligations.NoBudgetRunsNothing := by
  intro s n hr hc hn
  rw [host_execute hr hc, execute_of_nonpos hr hn]
  simp [finishExecute, beginExecute, hc]

/-! ### Register and memory access -/

/-- Settles O48, by the read after the write of a register and of a flag. -/
theorem hostRegisterAccess : Obligations.HostRegisterAccess := by
  intro s hr hc
  refine ⟨fun _ => host_of_ready hr hc _, host_of_ready hr hc _, fun _ => host_of_ready hr hc _,
    fun r v => ?byteReg, fun v => ?pc, fun f b => ?flag⟩
  case byteReg =>
    refine ⟨_, host_of_ready hr hc _, ?_, fun r' hne => ?_, setByteReg_eq s r v⟩
    · rw [host_of_ready (by simpa using hr) (by simpa using hc), hostReady, byteReg_setByteReg,
        if_pos rfl]
    · rw [byteReg_setByteReg, if_neg hne]
  case pc => exact ⟨_, host_of_ready hr hc _, host_of_ready (s := s.setPc v) hr hc _, rfl⟩
  case flag =>
    refine ⟨_, host_of_ready hr hc _, ?_, fun f' hne => ?_, rfl⟩
    · rw [host_of_ready (s := { s with flags := s.flags.set f b }) hr hc, hostReady,
        Flags.get_set, if_pos rfl]
    · rw [Flags.get_set, if_neg hne]

/-- Settles O49, by the read after the write of a byte. -/
theorem hostMemoryAccess : Obligations.HostMemoryAccess := fun _ a v hr hc hwf =>
  ⟨host_of_ready hr hc _, _, host_of_ready hr hc _, rfl, Memory.write_wf hwf a v,
    fun b => Memory.read_write hwf a b v⟩

/-! ### Refusals -/

/-- Settles O46: the status alone decides. -/
theorem unresetIsRefused : Obligations.UnresetIsRefused := fun _ hu =>
  ⟨by simp [step, hu], fun hc _ hop => host_of_unreset hu hc hop⟩

/-- Settles O47: the control state alone decides. -/
theorem hostCannotActInsideExecute : Obligations.HostCannotActInsideExecute :=
  fun _ _ _ op hc => host_of_executing hc op

end Sys2Proof.Machine
end

section
/-! PROOF. One pass of the dispatch loop (40_execute.md R73, R80): which instruction a step runs, and that a step is
four transitions of the state machine. -/

namespace Sys2Proof.Machine

/-! ### The instruction a step runs -/

theorem step_eq_exec {s : State} {i : Instr} (hr : s.status = .ready) (hpos : s.control.positive)
    (hi : instrAt s = some i) : step s = exec i s := by
  obtain ⟨t, ht, -⟩ := exec_frame i s
  rw [ht, step_eq_next_iff]
  exact ⟨hr, .runs hpos hi ht⟩

theorem step_eq_failAtPc {s : State} (hr : s.status = .ready) (hpos : s.control.positive)
    (hi : instrAt s = none) : step s = .next (failAtPc s) :=
  step_eq_next_iff.2 ⟨hr, .fails hpos hi⟩

/-- A format F2 opcode takes no byte 2 (R58). -/
theorem assemble_f2_eq {k : Opcode} (hk : k.format = .f2) (b1 b2 b2' : Byte) :
    k.assemble b1 b2 = k.assemble b1 b2' := by
  rcases k with ⟨_ | _⟩ | _ <;> cases hk <;> rfl

theorem bytesAtPc_two (s : State) : s.bytesAtPc 2 = [s.mem.read s.pc, s.mem.read (s.pc + 1)] := by
  simp [State.bytesAtPc, List.range_succ]

theorem bytesAtPc_three (s : State) :
    s.bytesAtPc 3 = [s.mem.read s.pc, s.mem.read (s.pc + 1), s.mem.read (s.pc + 2)] := by
  simp [State.bytesAtPc, List.range_succ]

/-- The instruction at PC is the one whose encoding stands there (R66). -/
theorem instrAt_of_bytesAtPc {s : State} {i : Instr} (hm : s.params.WellFormed)
    (h : s.bytesAtPc (encode s.params.opcodeMap i).length = encode s.params.opcodeMap i) :
    instrAt s = some i := by
  obtain ⟨hf, b1, hb, hi⟩ | ⟨-, b1, b2, hb, hi⟩ := eq_assemble_operandBytes i
  · simp only [encode, hb, List.length_cons, List.length_nil, Nat.zero_add, Nat.reduceAdd,
      bytesAtPc_two, List.cons.injEq, and_true] at h
    obtain ⟨h0, h1⟩ := h
    rw [instrAt, decodeBytes, h0, h1, decodeOpcode_byteOf hm, Option.map_some,
      assemble_f2_eq hf b1 _ 0, hi]
  · simp only [encode, hb, List.length_cons, List.length_nil, Nat.zero_add, Nat.reduceAdd,
      bytesAtPc_three, List.cons.injEq, and_true] at h
    obtain ⟨h0, h1, h2⟩ := h
    rw [instrAt, decodeBytes, h0, h1, h2, decodeOpcode_byteOf hm, Option.map_some, hi]

/-- Settles O15: the bytes that are decoded are those of `instrAt`. -/
theorem stepRunsDecodedInstruction : Obligations.StepRunsDecodedInstruction :=
  fun _ _ hr hpos hi => step_eq_exec hr hpos hi

/-- Settles O16: the encoding at PC is what `instrAt` decodes. -/
theorem stepRunsEncodedInstruction : Obligations.StepRunsEncodedInstruction :=
  fun _ _ ⟨hr, hpos, hm, hbytes⟩ => step_eq_exec hr hpos (instrAt_of_bytesAtPc hm hbytes)

/-- Settles O17, by the two ways of a step that runs no instruction. -/
theorem stepOutsideInstructions : Obligations.StepOutsideInstructions :=
  ⟨fun _ hr hc => step_eq_next_iff.2 ⟨hr, .rests hc⟩,
    fun _ _ _ hr hc hle => step_eq_next_iff.2 ⟨hr, .returns hc hle⟩⟩

/-- Settles O19: the failing pass leaves the core Ready and idle, where every operation is carried out. -/
theorem coreGoesOnAfterFailure : Obligations.CoreGoesOnAfterFailure := by
  intro s t hr hpos hi hstep
  cases (step_eq_failAtPc hr hpos hi).symm.trans hstep
  refine ⟨hr, rfl, rfl, fun op => ?_⟩
  rw [host_of_ready (s := failAtPc s) hr rfl]
  exact exists_hostReady_eq_reply op _

/-! ### The handlers -/

/-- A handler's byte operand is the byte that was decoded at PC +16 1. -/
theorem withByteOperand_fetchOpcode (f : Byte → State → Byte × State) (s : State) :
    withByteOperand f (fetchOpcode s) = f (s.mem.read (s.pc + 1)) (fetchedF2 s) := rfl

theorem fetchWord_fetchOpcode (s : State) :
    fetchWord (fetchOpcode s) =
      (joinBytes (s.mem.read (s.pc + 2)) (s.mem.read (s.pc + 1)), fetchedF3 s) := by
  have hpc : s.pc + 1 + 1 = s.pc + 2 := BitVec.add_assoc s.pc 1 1
  simp only [fetchedF3, fetchWord_eq, fetchOpcode_eq, wordAt, hpc]

theorem withWordOperand_fetchOpcode (f : Word → State → Byte × State) (s : State) :
    withWordOperand f (fetchOpcode s) =
      f (joinBytes (s.mem.read (s.pc + 2)) (s.mem.read (s.pc + 1))) (fetchedF3 s) := by
  rw [withWordOperand, fetchWord_fetchOpcode]

/-- The handler that fetches its own operand does what `exec` does with the operand decoded from the same bytes. -/
theorem exec_assemble (k : Opcode) (s : State) :
    exec (k.assemble (s.mem.read (s.pc + 1)) (s.mem.read (s.pc + 2))) s =
      .next (handler k (fetchOpcode s)) := by
  cases k with
  | jsr =>
    simp only [handler, fetchWord_fetchOpcode]
    rfl
  | lda mode =>
    cases mode with
    | imm | zp | zpx | indx | indy => rfl
    | abs | absx | absy =>
      simp only [handler, resolveMode, withWordOperand_fetchOpcode]
      rfl

/-! ### The transitions of R80 -/

theorem advance_check_of_pos {s : State} {req cyc : Int} (hc : s.control = .executing req cyc)
    (hlt : 0 < cyc) : LoopState.advance (.check, s) = (.fetch, s) := by
  simp [LoopState.advance, hc, hlt]

theorem advance_check_of_nonpos {s : State} {req cyc : Int} (hc : s.control = .executing req cyc)
    (hle : cyc ≤ 0) : LoopState.advance (.check, s) = (.done, s) := by
  simp [LoopState.advance, hc, Int.not_lt.2 hle]

theorem advance_fetch (s : State) :
    LoopState.advance (.fetch, s) = (.decode (s.mem.read s.pc), fetchOpcode s) := rfl

theorem advance_decode_some {s : State} {op : Byte} {k : Opcode}
    (h : decodeOpcode s.params.opcodeMap op = some k) :
    LoopState.advance (.decode op, s) = (.exec k, s) := by
  simp [LoopState.advance, h]

theorem advance_decode_none {s : State} {op : Byte}
    (h : decodeOpcode s.params.opcodeMap op = none) :
    LoopState.advance (.decode op, s) = (.fail op, s) := by
  simp [LoopState.advance, h]

theorem advance_exec (k : Opcode) (s : State) :
    LoopState.advance (.exec k, s) = (.check, handler k s) := rfl

theorem advance_fail (op : Byte) (s : State) :
    LoopState.advance (.fail op, s) = (.idle, raiseUnknownOpcode op s) := rfl

theorem advance_done {s : State} {req cyc : Int} (hc : s.control = .executing req cyc) :
    LoopState.advance (.done, s) = (.idle, finishExecute req cyc s) := by
  simp [LoopState.advance, hc]

theorem advance_idle (s : State) : LoopState.advance (.idle, s) = (.idle, s) := rfl

/-- CHECK, FETCH, DECODE, EXEC, and CHECK again. -/
theorem advance_pass_exec {s : State} {req cyc : Int} {k : Opcode}
    (hc : s.control = .executing req cyc) (hlt : 0 < cyc)
    (hk : decodeOpcode s.params.opcodeMap (s.mem.read s.pc) = some k) :
    LoopState.advance^[4] (.check, s) = (.check, handler k (fetchOpcode s)) := by
  have hdecode := advance_decode_some (s := fetchOpcode s) hk
  simp only [Function.iterate_succ_apply, Function.iterate_zero_apply, advance_check_of_pos hc hlt,
    advance_fetch, hdecode, advance_exec]

/-- CHECK, FETCH, DECODE, FAIL, and IDLE. -/
theorem advance_pass_fail {s : State} {req cyc : Int} (hc : s.control = .executing req cyc)
    (hlt : 0 < cyc) (hk : decodeOpcode s.params.opcodeMap (s.mem.read s.pc) = none) :
    LoopState.advance^[4] (.check, s) = (.idle, failAtPc s) := by
  have hdecode := advance_decode_none (s := fetchOpcode s) hk
  simp only [Function.iterate_succ_apply, Function.iterate_zero_apply, advance_check_of_pos hc hlt,
    advance_fetch, hdecode, advance_fail]
  rfl

/-- CHECK, DONE, and IDLE, where the machine stays. -/
theorem advance_pass_done {s : State} {req cyc : Int} (hc : s.control = .executing req cyc)
    (hle : cyc ≤ 0) : LoopState.advance^[4] (.check, s) = (.idle, finishExecute req cyc s) := by
  simp only [Function.iterate_succ_apply, Function.iterate_zero_apply,
    advance_check_of_nonpos hc hle, advance_done hc, advance_idle]

theorem instrAt_of_decodeOpcode {s : State} {k : Opcode}
    (hk : decodeOpcode s.params.opcodeMap (s.mem.read s.pc) = some k) :
    instrAt s = some (k.assemble (s.mem.read (s.pc + 1)) (s.mem.read (s.pc + 2))) := by
  rw [instrAt, decodeBytes, hk, Option.map_some]

/-- Settles O43, by the three ways through the loop: the counter is spent, the opcode is unknown, or its handler
runs. -/
theorem stepIsOneLoopPass : Obligations.StepIsOneLoopPass := by
  intro s req cyc hr hc
  obtain hle | hlt := le_or_gt cyc 0
  · exact ⟨_, step_eq_next_iff.2 ⟨hr, .returns hc hle⟩, advance_pass_done hc hle⟩
  have hpos : s.control.positive := positive_iff.2 ⟨req, cyc, hc, hlt⟩
  cases hk : decodeOpcode s.params.opcodeMap (s.mem.read s.pc) with
  | none =>
    exact ⟨_, step_eq_failAtPc hr hpos (instrAt_eq_none_iff.2 hk), advance_pass_fail hc hlt hk⟩
  | some k =>
    have he := exec_assemble k s
    obtain ⟨t, ht, -, -, -, hcontrol⟩ :=
      exec_frame (k.assemble (s.mem.read (s.pc + 1)) (s.mem.read (s.pc + 2))) s
    cases he.symm.trans ht
    have hstays : (handler k (fetchOpcode s)).control ≠ .idle := by
      rw [hcontrol, hc, Control.charge_executing]
      exact nofun
    refine ⟨_, (step_eq_exec hr hpos (instrAt_of_decodeOpcode hk)).trans he, ?_⟩
    rw [advance_pass_exec hc hlt hk, if_neg hstays]

end Sys2Proof.Machine
end

section
/-! PROOF. The corners of the addressing modes: the closed forms of the coarse test (41_load_accumulator.md R89), and
where the zero-page wrap of a pointer and the 16-bit sum name one address (R96, R97). -/

namespace Sys2Proof.Machine

/-! ### The page-cross test -/

@[simp] theorem toNat_zext16 (v : Byte) : (zext16 v).toNat = v.toNat :=
  BitVec.toNat_setWidth_of_le (by decide)

/-- A byte is at least 255 only as 0xFF. -/
theorem le_toNat_byte_iff {v : Byte} : 255 ≤ v.toNat ↔ v = 0xFF := by
  bv_omega

theorem pageCrossCoarse_signed_iff {base ea : Word} :
    pageCrossCoarse .signed base ea = true ↔ (ea.toNat : Int) - (base.toNat : Int) ≥ 255 :=
  decide_eq_true_iff

theorem pageCrossCoarse_modular_iff {base ea : Word} :
    pageCrossCoarse .modular base ea = true ↔ (ea - base).toNat ≥ 255 :=
  decide_eq_true_iff

/-- The exact difference is the index, or 65536 less where the sum wraps, and only a base above 0xFF00 wraps with the
index 0xFF. -/
theorem pageCrossCoarse_signed_indexed_iff {base : Word} {idx : Byte} :
    pageCrossCoarse .signed base (base + zext16 idx) = true ↔ idx = 0xFF ∧ base.toNat ≤ 0xFF00 := by
  rw [pageCrossCoarse_signed_iff, ← le_toNat_byte_iff, BitVec.toNat_add, toNat_zext16]
  have hbase := base.isLt
  have hidx := idx.isLt
  omega

/-- The modular difference is the index itself. -/
theorem pageCrossCoarse_modular_indexed_iff {base : Word} {idx : Byte} :
    pageCrossCoarse .modular base (base + zext16 idx) = true ↔ idx = 0xFF := by
  rw [pageCrossCoarse_modular_iff, add_sub_cancel_left, toNat_zext16, ge_iff_le,
    le_toNat_byte_iff]

/-- Settles O14, by the two closed forms and the two examples of R89. -/
theorem pageCrossCoarseForms : Obligations.PageCrossCoarseForms := by
  refine ⟨fun _ _ => ⟨pageCrossCoarse_signed_iff, pageCrossCoarse_modular_iff⟩,
    fun _ _ => ⟨pageCrossCoarse_signed_indexed_iff, pageCrossCoarse_modular_indexed_iff⟩,
    fun arith => ?_⟩
  cases arith <;> decide

/-- The closed forms of R89 differ only for the index 0xFF with a base above 0xFF00 (D8). -/
theorem pageCrossCoarse_indexed_iff_of_base_le {base : Word} {idx : Byte}
    (h : idx = 0xFF → base.toNat ≤ 0xFF00) (arith : PageCrossArith) :
    pageCrossCoarse arith base (base + zext16 idx) = true ↔ idx = 0xFF := by
  cases arith with
  | signed => rw [pageCrossCoarse_signed_indexed_iff, and_iff_left_of_imp h]
  | modular => exact pageCrossCoarse_modular_indexed_iff

theorem penalty_eq_of_base_le {base : Word} {idx : Byte} (h : idx = 0xFF → base.toNat ≤ 0xFF00)
    (arith arith' : PageCrossArith) : penalty arith base idx = penalty arith' base idx := by
  have hiff := pageCrossCoarse_indexed_iff_of_base_le h
  rw [← pageCrossCoarse_toNat, ← pageCrossCoarse_toNat,
    Bool.eq_iff_iff.2 ((hiff arith).trans (hiff arith').symm)]

/-! ### The pointer addresses -/

theorem zext16_add {u v : Byte} (h : u.toNat + v.toNat < 256) :
    zext16 (u + v) = zext16 u + zext16 v := by
  apply BitVec.eq_of_toNat_eq
  simp only [BitVec.toNat_add, toNat_zext16]
  omega

theorem zext16_add_one {v : Byte} (h : v ≠ 0xFF) : zext16 (v + 1) = zext16 v + 1 := by
  refine zext16_add ?_
  bv_omega

theorem zext16_add_add_one {u v : Byte} (h : u.toNat + v.toNat < 0xFF) :
    zext16 (u + v + 1) = zext16 u + zext16 v + 1 := by
  have hne : u + v ≠ 0xFF := by bv_omega
  rw [zext16_add_one hne, zext16_add (Nat.lt_succ_of_lt h)]

/-- Below the corner of R96 the pointer addresses are the same under both settings of `INDX_PTR_WRAP`. -/
theorem indxPointerAddrs_eq_of_lt {s : State} {zp : Byte} (h : zp.toNat + s.x.toNat < 0xFF) :
    indxPointerAddrs s zp = (zext16 zp + zext16 s.x, zext16 zp + zext16 s.x + 1) := by
  unfold indxPointerAddrs
  split
  · rw [zext16_add_add_one h, zext16_add (Nat.lt_succ_of_lt h)]
  · rfl

/-- Away from the corner of D7 the pointer addresses are the same under both settings of `INDY_PTR_WRAP`. -/
theorem indyPointerAddrs_eq_of_ne {zp : Byte} (h : zp ≠ 0xFF) (s : State) :
    indyPointerAddrs s zp = (zext16 zp, zext16 zp + 1) := by
  unfold indyPointerAddrs
  split
  · rfl
  · rw [zext16_add_one h]

end Sys2Proof.Machine
end

section
/-! PROOF. The eight loads (41_load_accumulator.md R98 to R106): the whole next state of each, what a load leaves
unchanged, and what its outcome depends on. -/

namespace Sys2Proof.Machine

/-! ### The whole next state -/

/-- What `exec` answers, a step answers over the instruction's bytes at PC. -/
theorem exec_and_step_of_exec {i : Instr} {s t : State} (he : exec i s = .next t) :
    exec i s = .next t ∧ (s.AboutToRun (encode s.params.opcodeMap i) → step s = .next t) :=
  ⟨he, fun h => (stepRunsEncodedInstruction s i h).trans he⟩

/-- Settles O24, by the equation of the instruction. -/
theorem ldaAbsoluteXResult : Obligations.LdaAbsoluteXResult := fun s abs16 =>
  exec_and_step_of_exec (exec_ldaAbsX s abs16)

/-- Settles O25, by the equation of the instruction. -/
theorem ldaAbsoluteYResult : Obligations.LdaAbsoluteYResult := fun s abs16 =>
  exec_and_step_of_exec (exec_ldaAbsY s abs16)

/-- Settles O27, by the equation of the instruction; its pointer is the one written out for each setting of
`INDY_PTR_WRAP`. -/
theorem ldaIndirectYResult : Obligations.LdaIndirectYResult := by
  intro s zp8 ptr t
  have hptr : wordAt s.mem (indyPointerAddrs s zp8) = ptr := by
    cases h : s.params.indyPtrWrap <;> simp [ptr, indyPointerAddrs, wordAt, h]
  have he : exec (.ldaIndY zp8) s = .next t := by
    rw [exec_ldaIndY, hptr]
  exact exec_and_step_of_exec he

/-- Settles O20, by the equation of the instruction. -/
theorem ldaImmediateResult : Obligations.LdaImmediateResult := fun s imm8 =>
  exec_and_step_of_exec (exec_ldaImm s imm8)

/-- Settles O21, by the equation of the instruction. -/
theorem ldaZeroPageResult : Obligations.LdaZeroPageResult := fun s zp8 =>
  exec_and_step_of_exec (exec_ldaZp s zp8)

/-- Settles O22, by the equation of the instruction. -/
theorem ldaZeroPageXResult : Obligations.LdaZeroPageXResult := fun s zp8 =>
  exec_and_step_of_exec (exec_ldaZpX s zp8)

/-- Settles O23, by the equation of the instruction. -/
theorem ldaAbsoluteResult : Obligations.LdaAbsoluteResult := fun s abs16 =>
  exec_and_step_of_exec (exec_ldaAbs s abs16)

/-- Settles O26, by the equation of the instruction; below the corner the wrapped addresses are the 16-bit sums. -/
theorem ldaIndirectXResult : Obligations.LdaIndirectXResult := by
  intro s zp8 wrapped unwrapped ea t
  have hea : wordAt s.mem (indxPointerAddrs s zp8) = ea := by
    cases h : s.params.indxPtrWrap <;>
      simp [ea, wrapped, unwrapped, indxPointerAddrs, wordAt, h]
  have he : exec (.ldaIndX zp8) s = .next t := by
    rw [exec_ldaIndX, hea]
  obtain ⟨hexec, hstep⟩ := exec_and_step_of_exec he
  refine ⟨hexec, hstep, rfl, fun hlt => ?_⟩
  simp only [wrapped, unwrapped, zext16_add_add_one hlt, zext16_add (Nat.lt_succ_of_lt hlt)]

/-! ### What a load leaves unchanged -/

/-- Settles O32: the state after a load is `State.loaded`, which writes A, Z and N over whatever stood there. -/
theorem loadFrame : Obligations.LoadFrame := by
  intro s i hi
  obtain ⟨v, hv⟩ := exec_load_withFlagsAndA hi s
  exact ⟨_, hv s.flags s.a, rfl, fun _ => rfl, rfl, rfl, rfl, rfl, rfl, rfl, rfl, rfl, rfl, rfl, rfl,
    rfl, rfl, rfl, fun a z n => hv { s.flags with z := z, n := n } a⟩

/-! ### What the outcome of a load depends on -/

/-- The byte an instruction's mode resolves to (R90 to R97); JSR has none. -/
def resolvedByte (s : State) : Instr → Byte
  | .ldaImm imm8  => imm8
  | .ldaZp zp     => s.mem.read (zext16 zp)
  | .ldaZpX zp    => s.mem.read (zext16 (zp + s.x))
  | .ldaAbs a     => s.mem.read a
  | .ldaAbsX base => s.mem.read (base + zext16 s.x)
  | .ldaAbsY base => s.mem.read (base + zext16 s.y)
  | .ldaIndX zp   => s.mem.read (wordAt s.mem (indxPointerAddrs s zp))
  | .ldaIndY zp   => s.mem.read (wordAt s.mem (indyPointerAddrs s zp) + zext16 s.y)
  | .jsr _        => 0x00

theorem exec_load {i : Instr} (hi : i.opcode ≠ .jsr) (s : State) :
    exec i s = .next (s.loaded i.opcode.length (i.cost s) (resolvedByte s i)) := by
  cases i with
  | ldaImm imm8 => exact exec_ldaImm s imm8
  | ldaZp zp => exact exec_ldaZp s zp
  | ldaZpX zp => exact exec_ldaZpX s zp
  | ldaAbs a => exact exec_ldaAbs s a
  | ldaAbsX base => exact exec_ldaAbsX s base
  | ldaAbsY base => exact exec_ldaAbsY s base
  | ldaIndX zp => exact exec_ldaIndX s zp
  | ldaIndY zp => exact exec_ldaIndY s zp
  | jsr _ => exact absurd rfl hi

theorem wordAt_congr {m m' : Memory} {p : Word × Word} (hlow : m.read p.1 = m'.read p.1)
    (hhigh : m.read p.2 = m'.read p.2) : wordAt m p = wordAt m' p := by
  rw [wordAt, wordAt, hlow, hhigh]

/-- The byte resolved to and the cost (whose penalty depends on a pointer) are the same for memories that agree on the
addresses the mode names. -/
theorem resolvedByte_and_cost_withMem {s : State} {i : Instr} {m : Memory}
    (h : ∀ b ∈ i.dataAddrs s, m.read b = s.mem.read b) :
    resolvedByte { s with mem := m } i = resolvedByte s i ∧ i.cost { s with mem := m } = i.cost s := by
  cases i with
  | ldaImm | jsr => exact ⟨rfl, rfl⟩
  | ldaZp | ldaZpX | ldaAbs | ldaAbsX | ldaAbsY => exact ⟨h _ (List.mem_singleton_self _), rfl⟩
  | ldaIndX zp =>
    simp only [Instr.dataAddrs, List.forall_mem_cons] at h
    obtain ⟨hlow, hhigh, hdata, -⟩ := h
    have hptr : wordAt m (indxPointerAddrs { s with mem := m } zp) = wordAt s.mem (indxPointerAddrs s zp) :=
      wordAt_congr hlow hhigh
    exact ⟨by simp only [resolvedByte, hptr, hdata], rfl⟩
  | ldaIndY zp =>
    simp only [Instr.dataAddrs, List.forall_mem_cons] at h
    obtain ⟨hlow, hhigh, hdata, -⟩ := h
    have hptr : wordAt m (indyPointerAddrs { s with mem := m } zp) = wordAt s.mem (indyPointerAddrs s zp) :=
      wordAt_congr hlow hhigh
    exact ⟨by simp only [resolvedByte, hptr, hdata], by simp only [Instr.cost, hptr]⟩

/-- Settles O33: the byte a load resolves to and its cost come from the addresses the mode names. -/
theorem loadReadsOnlyItsAddresses : Obligations.LoadReadsOnlyItsAddresses := by
  intro s i m hi h
  obtain ⟨hbyte, hcost⟩ := resolvedByte_and_cost_withMem h
  refine ⟨_, exec_load hi s, ?_⟩
  rw [exec_load hi, hbyte, hcost]
  rfl

/-- Away from the corners of D6, D7 and D8 the byte resolved to and the cost are the same under every setting of the
addressing parameters. -/
theorem resolvedByte_and_cost_withParams {s : State} {i : Instr} (h : i.AwayFromCorners s)
    (p : Params) :
    resolvedByte { s with params := p } i = resolvedByte s i ∧
      i.cost { s with params := p } = i.cost s := by
  cases i with
  | ldaImm | ldaZp | ldaZpX | ldaAbs | jsr => exact ⟨rfl, rfl⟩
  | ldaAbsX | ldaAbsY => exact ⟨rfl, congrArg (4 + ·) (penalty_eq_of_base_le h _ _)⟩
  | ldaIndX zp =>
    have haddrs : indxPointerAddrs { s with params := p } zp = indxPointerAddrs s zp :=
      (indxPointerAddrs_eq_of_lt (s := { s with params := p }) h).trans
        (indxPointerAddrs_eq_of_lt h).symm
    exact ⟨by simp only [resolvedByte, haddrs], rfl⟩
  | ldaIndY zp =>
    obtain ⟨hzp, hbase⟩ := h
    have haddrs : indyPointerAddrs { s with params := p } zp = indyPointerAddrs s zp :=
      (indyPointerAddrs_eq_of_ne hzp _).trans (indyPointerAddrs_eq_of_ne hzp s).symm
    refine ⟨by simp only [resolvedByte, haddrs], ?_⟩
    simp only [Instr.cost, haddrs]
    rw [penalty_eq_of_base_le hbase p.pageCrossArith]

/-- Settles O34: the parameters reach a load through its byte and its cost alone, and JSR reads none of them. -/
theorem parametersAgreeAwayFromCorners : Obligations.ParametersAgreeAwayFromCorners := by
  intro s i ix iy arith h p
  obtain ⟨hi, -⟩ | ⟨target, rfl⟩ := exec_cases i s
  · obtain ⟨hbyte, hcost⟩ := resolvedByte_and_cost_withParams h p
    refine ⟨_, exec_load hi s, ?_⟩
    rw [exec_load hi, hbyte, hcost]
    rfl
  · exact ⟨_, exec_jsr s target, exec_jsr _ target⟩

end Sys2Proof.Machine
end

section
/-! PROOF. Jump-to-subroutine (42_jump_subroutine.md R107 to R110): the whole next state, the two bytes it stores, and
the byte pairs of successive calls. -/

namespace Sys2Proof.Machine

/-- Settles O28, by the equation of the instruction. -/
theorem jsrResult : Obligations.JsrResult := fun s abs16 =>
  exec_and_step_of_exec (exec_jsr s abs16)

/-! ### The bytes stored -/

/-- The address above the stack byte does not wrap: it is 0x0100 at the most (R109). -/
theorem toNat_zext16_add_one (v : Byte) : (zext16 v + 1).toNat = v.toNat + 1 := by
  have hv := toNat_zext16 v
  bv_omega

/-- The memory after JSR is that after the `WriteWord` of the return word at zext16(SP). -/
theorem exec_jsr_mem {s t : State} {target : Word} (he : exec (.jsr target) s = .next t) :
    t.mem = (writeWord (zext16 s.sp) (s.pc + 2) s).mem := by
  cases (exec_jsr s target).symm.trans he
  rfl

/-- Settles O29, by what `WriteWord` leaves to be read. -/
theorem jsrMemoryFrame : Obligations.JsrMemoryFrame := by
  intro s abs16 h
  have he := exec_jsr s abs16
  have hread := read_writeWord h (zext16 s.sp) (s.pc + 2)
  have hne : zext16 s.sp ≠ zext16 s.sp + 1 := by bv_omega
  rw [← exec_jsr_mem he] at hread
  refine ⟨_, he, exec_mem_wf he h, ?low, ?high, fun b hlow hhigh => ?other, toNat_zext16 _,
    toNat_zext16_add_one _, s.sp.isLt, rfl⟩
  case low => rw [hread, if_neg hne, if_pos rfl, lowByte]
  case high => rw [hread, if_pos rfl, highByte]
  case other => rw [hread, if_neg hhigh, if_neg hlow]

/-! ### Successive calls -/

theorem jumpSubroutine_fetchedF3_sp (target : Word) (s : State) :
    (jumpSubroutine target (fetchedF3 s)).sp = s.sp - 2 := rfl

section SuccessiveCalls

variable {targets : Nat → Word} {after : Nat → State}
  (hsucc : ∀ k, after (k + 1) = jumpSubroutine (targets k) (fetchedF3 (after k)))

include hsucc

/-- Each call lowers SP by 2 modulo 256 (R110, D5). -/
theorem sp_after_calls (k : Nat) : (after k).sp = (after 0).sp - BitVec.ofNat 8 (2 * k) := by
  induction k with
  | zero => simp
  | succ k ih =>
    rw [hsucc, jumpSubroutine_fetchedF3_sp, ih, Nat.mul_succ, BitVec.ofNat_add]
    exact sub_sub _ _ _

/-- From SP = 0xFF no subtraction wraps in the first 127 calls. -/
theorem toNat_sp_after_calls (h : (after 0).sp = 0xFF) {k : Nat} (hk : k < 128) :
    (after k).sp.toNat = 255 - 2 * k := by
  rw [sp_after_calls hsucc, h]
  bv_omega

/-- 128 calls lower SP by 256, which is 0 modulo 256 (R110). -/
theorem sp_after_128_calls : (after 128).sp = (after 0).sp := by
  rw [sp_after_calls hsucc]
  exact sub_zero _

end SuccessiveCalls

/-- The pairs of two stack bytes that are at least 2 apart share no address. -/
theorem stack_pairs_disjoint {p q : Byte} (h : q.toNat + 2 ≤ p.toNat) {d e : Word} (hd : d ≤ 1)
    (he : e ≤ 1) : zext16 p + d ≠ zext16 q + e := by
  have hp := toNat_zext16 p
  have hq := toNat_zext16 q
  bv_omega

/-- Settles O30: SP is 255 - 2k after k < 128 calls, so an earlier call's pair is at least 2 above a later one's. -/
theorem jsrStackPairsDisjoint : Obligations.JsrStackPairsDisjoint := by
  intro s targets h after
  have hsucc (k : Nat) : after (k + 1) = jumpSubroutine (targets k) (fetchedF3 (after k)) := rfl
  refine ⟨fun _ => rfl, fun j k hjk hk d e hd he => ?_, (sp_after_128_calls hsucc).trans h⟩
  have hj := toNat_sp_after_calls hsucc h (hjk.trans hk)
  have hk' := toNat_sp_after_calls hsucc h hk
  exact stack_pairs_disjoint (by omega) hd he

end Sys2Proof.Machine
end

section
/-! PROOF. The one failure of an `Execute`, and the calls that run one instruction (60_exceptions.md R113 to R121,
R129). -/

namespace Sys2Proof.Machine

/-! ### No instruction fails -/

/-- A charge neither begins nor ends a call. -/
theorem Control.charge_eq_idle_iff {c : Control} {n : Nat} : c.charge n = .idle ↔ c = .idle := by
  cases c <;> simp

/-- Settles O35, by the frame of every instruction: it only charges the counter of a call. -/
theorem everyInstructionCompletes : Obligations.EveryInstructionCompletes := by
  intro s i
  obtain ⟨t, he, hstatus, hresult, hparams, hcontrol⟩ := exec_frame i s
  exact ⟨t, he, hstatus, hresult, hparams, hcontrol ▸ Control.charge_eq_idle_iff⟩

/-! ### The failing step -/

/-- Settles O18: the byte at PC does not decode, so the step is the failing pass of the loop. -/
theorem unknownOpcodeFailure : Obligations.UnknownOpcodeFailure := by
  intro s req cyc hr hc hlt hop
  have hpos : s.control.positive := positive_iff.2 ⟨req, cyc, hc, hlt⟩
  have hfetch : (fetchByte s).2.control = .executing req (cyc - 1) := by simp [fetchByte_eq, hc]
  refine ⟨hfetch, ?_⟩
  rw [step_eq_failAtPc hr hpos (instrAt_eq_none_iff.2 hop), failAtPc_eq]

/-! ### Calls of one pass -/

theorem instrAt_beginExecute (n : Int) (s : State) :
    instrAt (beginExecute n s) = instrAt s := rfl

/-- A cost is read off the index registers, memory and the parameters, which `Execute` does not touch as it begins. -/
theorem cost_beginExecute (i : Instr) (n : Int) (s : State) :
    i.cost (beginExecute n s) = i.cost s := by
  cases i <;> rfl

theorem beginExecute_positive {n : Int} (hn : 0 < n) (s : State) :
    (beginExecute n s).control.positive :=
  positive_iff.2 ⟨n, n, rfl, hn⟩

/-- A call on an unknown opcode ends in its first pass, whatever its budget (R117). -/
theorem execute_of_instrAt_eq_none {s : State} {n : Int} (hr : s.status = .ready) (hn : 0 < n)
    (hi : instrAt s = none) : execute n s = failAtPc (beginExecute n s) := by
  have hstep : step (beginExecute n s) = .next (failAtPc (beginExecute n s)) :=
    step_eq_failAtPc hr (beginExecute_positive hn s) ((instrAt_beginExecute n s).trans hi)
  rw [execute, runLoop_succ rfl hstep, runLoop_of_idle rfl]

/-- A call whose budget the instruction at PC uses up runs that instruction and returns its cost (R129). -/
theorem execute_of_le_cost {s t : State} {i : Instr} {n : Int} (hr : s.status = .ready)
    (hn : 0 < n) (hi : instrAt s = some i) (hle : n ≤ i.cost s)
    (he : exec i (beginExecute n s) = .next t) :
    execute n s = finishExecute n (n - i.cost s) t := by
  obtain ⟨t', ht', hstatus, -, -, hcontrol⟩ := exec_frame i (beginExecute n s)
  cases ht'.symm.trans he
  rw [beginExecute_control, Control.charge_executing, cost_beginExecute] at hcontrol
  have hruns : step (beginExecute n s) = .next t :=
    (step_eq_exec (s := beginExecute n s) hr (beginExecute_positive hn s)
      ((instrAt_beginExecute n s).trans hi)).trans he
  have hreturns : step t = .next (finishExecute n (n - i.cost s) t) :=
    step_eq_next_iff.2 ⟨hstatus.trans hr, .returns hcontrol (Int.sub_nonpos_of_le hle)⟩
  have hfuel : n.toNat = (n.toNat - 1) + 1 := by omega
  rw [execute, runLoop_succ rfl hruns, hfuel, runLoop_succ hcontrol hreturns, runLoop_of_idle rfl]

/-- Settles O54: no instruction costs less than 2, so the first one uses up a budget of 1 or 2. -/
theorem singleStepping : Obligations.SingleStepping := by
  intro s n hr hc hn
  have hpos : 0 < n := by omega
  refine ⟨fun i hi => ?runs, fun hi => ?fails⟩
  case runs =>
    have hle : n ≤ i.cost s := by have := (cost_bounds i s).1; omega
    obtain ⟨t, he, -⟩ := exec_frame i (beginExecute n s)
    refine ⟨t, he, ?_⟩
    rw [host_execute hr hc, execute_of_le_cost hr hpos hi hle he, finishExecute_result,
      finishExecute, sub_sub_cancel]
  case fails =>
    rw [host_execute hr hc, execute_of_instrAt_eq_none hr hpos hi, failAtPc_eq, ← hc]
    rfl

end Sys2Proof.Machine
end

section
/-! PROOF. Reset, and the cycles of instructions and of whole calls (70_reset_and_hazards.md R131, R132, R139, R140). -/

namespace Sys2Proof.Machine

/-! ### One instruction, and Reset -/

/-- Settles O36, by the bounds of the table and the frame of every instruction. -/
theorem costTable : Obligations.CostTable := by
  intro s i
  obtain ⟨hlo, hhi⟩ := cost_bounds i s
  obtain ⟨t, he, -, -, -, hcontrol⟩ := exec_frame i s
  exact ⟨hlo, hhi, t, he, hcontrol⟩

/-- Settles O45: Reset reads nothing but the parameters, and the reset state is idle and has those it was given. -/
theorem resetFromAnyState : Obligations.ResetFromAnyState := fun s hc =>
  ⟨host_reset_of_idle hc, host_reset_of_idle (s := State.resetWith s.params) rfl, rfl⟩

/-! ### The costs of a call -/

/-- A pass with a spent counter runs no instruction (R76). -/
theorem costsRun_of_nonpos {s : State} {req cyc : Int} (hc : s.control = .executing req cyc)
    (hle : cyc ≤ 0) (fuel : Nat) : costsRun fuel s = 0 := by
  cases fuel with
  | zero => rfl
  | succ k => simp [costsRun, hc, Control.positive, Int.not_lt.2 hle]

theorem costsRun_succ {s t : State} {i : Instr} (hpos : s.control.positive)
    (hi : instrAt s = some i) (he : exec i s = .next t) (k : Nat) :
    costsRun (k + 1) s = i.cost s + costsRun k t := by
  simp [costsRun, hpos, hi, he]

/-- Along a call, what the counter has fallen by and the costs still to be charged make up the count returned: each
pass moves the cost of one instruction from the second to the first. -/
theorem used_eq_add_costsRun {fuel : Nat} {s : State} {req cyc used : Int} (hr : s.status = .ready)
    (hc : s.control = .executing req cyc) (hnone : s.result = none)
    (hok : (runLoop fuel s).result = some (.ok used)) :
    used = req - cyc + costsRun fuel s := by
  induction fuel generalizing s cyc with
  | zero => cases hnone.symm.trans hok
  | succ k ih =>
    obtain ⟨t, hstep⟩ := exists_step_eq_next hr
    obtain ⟨-, hsteps⟩ := step_eq_next_iff.1 hstep
    rw [runLoop_succ hc hstep] at hok
    cases hsteps with
    | rests hidle => cases hidle.symm.trans hc
    | @runs i _ hpos hi he =>
      obtain ⟨t', ht', hstatus, hresult, -, hcontrol⟩ := exec_frame i s
      cases ht'.symm.trans he
      rw [hc, Control.charge_executing] at hcontrol
      have hrest := ih (hstatus.trans hr) hcontrol (hresult.trans hnone) hok
      rw [costsRun_succ hpos hi he]
      omega
    | fails =>
      rw [runLoop_of_idle rfl] at hok
      cases hok
    | returns hc' hle =>
      cases hc.symm.trans hc'
      rw [runLoop_of_idle rfl] at hok
      cases hok
      simp [costsRun_of_nonpos hc hle]

/-- Settles O53: as a call begins the counter has fallen by nothing. -/
theorem usedIsSumOfCosts : Obligations.UsedIsSumOfCosts := by
  intro s t n used hr hc hhost
  rw [host_execute hr hc] at hhost
  injection hhost with hreply
  injection hreply with hok
  have hused := used_eq_add_costsRun (s := beginExecute n s) hr rfl rfl hok
  rwa [sub_self, zero_add] at hused

end Sys2Proof.Machine
end
